-- ==== Sys2Proof/Word.lean ====
section
/-! DEFINITION. The widths the spec gives its bit vectors (00_scope.md rules R6 and R9). -/

namespace Sys2Proof

/-- `BUS_W` = 8: a byte on the shared bus, in an output latch, or of the RAND stream (R6, `RAND_W` = 8). -/
abbrev Byte := BitVec 8

/-- `BOARD` = 10: a set of positions, bit i is position i: a light pattern or a switch set (R64, R80). -/
abbrev Pattern := BitVec 10

/-- The 4-bit index width of R6: a button index, a light index, a cursor, a count. -/
abbrev Index := BitVec 4

/-- `TS_W` = 32: the poll counter and the timestamp of an event (R6, R23). -/
abbrev Stamp := BitVec 32

/-- The `RSTATE` register and its codes (R28, R87). -/
abbrev RState := BitVec 3

/-- A pin-trace entry, the code of a micro-operation over its data byte (R82). -/
abbrev TraceEntry := BitVec 12

/-- A command word of the model: code, format selector and operands (assumption log 2). -/
abbrev CmdWord := BitVec 48

end Sys2Proof
end

