-- ==== Sys2Proof/Config.lean ====
section
/-! DEFINITION. What an implementation fixes (the OPEN parameters of 00_scope.md rule R6) and the free values,
which have no body: nothing can be proved of them but that they are some value. -/

namespace Sys2Proof

/-- The OPEN parameters of R6, constants of the machine that no operation writes (R46; log 3), and one bound of the
model's own. -/
structure Config where
  /-- `SETTLE_CYCLES`, D3: how many no-op cycles the sequencer issues between enabling a bank and sampling it. -/
  settleCycles : Nat
  /-- `ACTIVE_SIZE(Easy)`, D14. -/
  activeEasy : Nat
  /-- `ACTIVE_SIZE(Medium)`, D14. -/
  activeMedium : Nat
  /-- `ACTIVE_SIZE(Hard)`, D14. -/
  activeHard : Nat
  /-- `SCORE_MAX`, D21 (at least 1). DESIGN CHOICE (log 29): a build with 0 runs, and its score stays 0. -/
  scoreMax : Nat
  /-- DESIGN CHOICE (log 4), the model's own: how many attempts, beyond one for each RAND word lined up, GENERATE
  is given before the model calls it hung (R166: "a model runs GENERATE under fuel"). -/
  attemptFuel : Nat
deriving DecidableEq, Repr

/-- The defaults of R6; `attemptFuel` is the model's (log 4). -/
def Config.default : Config :=
  { settleCycles := 2, activeEasy := 6, activeMedium := 8, activeHard := 10, scoreMax := 99, attemptFuel := 16 }

/-- The n-th value seen on a bus that nobody drives, or whose driver has not settled (R36, I9, I10; log 6). -/
opaque Config.freeByte : Nat → Byte

/-- The value the unused lines 7:2 of the high input bank show after the n-th draw (R41, I11; log 7). -/
opaque Config.freeHigh : Nat → BitVec 6

/-- The word of the RAND stream at a position for which the environment has lined none up (R45, I4; log 5). -/
opaque Config.freeRand : Nat → Byte

end Sys2Proof
end

