-- ==== Sys2Proof/Syntax.lean ====
section
/-! DEFINITION. The 42 operations of spec/opcode_table.json (30_encoding.md rule R81), one constructor each, with the
operands of R82, R84 and R99. -/

namespace Sys2Proof

/-- The two banks of the shared bus (00_scope.md R11, R13): low carries positions 0 to 7, high 8 and 9. -/
inductive Bank where
  | lo
  | hi
deriving DecidableEq, Repr

/-- An EdgeEvent (R84): button, transition (true pressed, R88) and the poll count when its poll began. -/
structure EventRec where
  ts : Stamp
  tr : Bool
  button : Index
deriving DecidableEq, Repr

/-- One constructor per row of the opcode table, in the order of R81. -/
inductive Instr where
  -- signaling, format U (R82)
  | uNop
  | uBusOut (d : Byte)
  | uBusRel
  | uStbLo
  | uStbHi
  | uOeLoOn
  | uOeLoOff
  | uOeHiOn
  | uOeHiOff
  | uSampLo
  | uSampHi
  -- signaling, format M
  | busWrite (bank : Bank) (v : Byte)
  | busRead (bank : Bank)
  | writeLights (p : Pattern)
  | readSwitches
  -- debounce, format M
  | sample
  | debounce (i : Index) (raw : Pattern)
  | emit (i : Index) (t : Bool)
  -- generator, format M
  | generate
  | gInit
  | gSwap (i j : Index)
  | gCheck
  -- controller, format Q (R83)
  | noreq
  | start (d : BitVec 2)
  | sessionReset
  | abort
  -- controller, format M
  | tick (sw : Pattern)
  | dispatch (e : EventRec)
  | auto
  -- controller, format K (R85); the operand is the event that was taken
  | evDrop (e : EventRec)
  | pvRelease (e : EventRec)
  | pvIgnore (e : EventRec)
  | pvAdvance (e : EventRec)
  | rcRelease (e : EventRec)
  | rcMiss (e : EventRec)
  | rcHit (e : EventRec)
  -- controller, format A (R86)
  | pvDone
  | rcDone
  | reportSuccess
  | reportFailure
  -- score and reset, format M
  | record (s : Bool) (c : Index)
  | reset
deriving DecidableEq, Repr

/-- The seven operations a dispatch key of format K can select (R85). -/
inductive EvOp where
  | drop
  | pvRelease
  | pvIgnore
  | pvAdvance
  | rcRelease
  | rcMiss
  | rcHit
deriving DecidableEq, Repr

/-- The four operations an automatic key of format A can select (R86). -/
inductive AutoOp where
  | pvDone
  | rcDone
  | reportSuccess
  | reportFailure
deriving DecidableEq, Repr

/-- Why an instruction's operands are outside the domain the spec gives them. -/
inductive IllFormed where
  /-- DEBOUNCE of a lane above 9 (R142: "lane i in 0 to 9"). -/
  | laneRange
  /-- An event, or EMIT, with a button index above 9 (R84, R144, I21). -/
  | buttonRange
  /-- G_SWAP with an index above 9 (R164; R62: a model refuses it). -/
  | swapRange
  /-- G_SWAP with j above i (R164: 0 <= j <= i). It runs (log 22). -/
  | swapOrder
  /-- RECORD with a count above 10 (R220: "c, the count, 0 to 10"). It runs (log 22). -/
  | countRange
  /-- An event operation of format K whose event has the other transition (R186 to R192). It runs (log 10). -/
  | transition
deriving DecidableEq, Repr

/-- Why a command word is no operation. All are safe: the model stops where no operation is named. -/
inductive DecodeError where
  /-- A micro-operation code 1011 to 1111 (R94 a, I19). -/
  | reservedMicroCode
  /-- A dispatch key of SUCCESS or FAILURE: R85, "cannot occur". -/
  | impossibleEventKey
  /-- A dispatch or automatic key that holds a reserved `RSTATE` code (R85, R86, R94 b). -/
  | reservedStateKey
  /-- An automatic key for which R86 names no operation: "none: the loop ends". -/
  | noAutoOperation
  /-- A format selector the model gives no meaning (log 2). -/
  | unknownFormat
  /-- An index of 10 to 15, of a button, a lane or an entry of `MAP` (R62, R94 e, I21). -/
  | illFormed (why : IllFormed)
deriving DecidableEq, Repr

end Sys2Proof
end

