-- ==== Sys2Proof/Machine/State.lean ====
section
/-! DEFINITION. The machine's state (10_state.md), the reasons a step can stop, and the state after reset (R47). -/

namespace Sys2Proof.Machine

/-- Why the machine stops with a fault. -/
inductive Fault where
  /-- Raised by any micro-operation after which two or more drivers are on the shared bus (R36, R234). Safe: the
  hardware neither detects nor survives it, and the model gives no state after it. -/
  | busContention
  /-- Raised by GENERATE, and so by START, when every attempt the model allows it gave the identity (R166, I14
  "stuck"). Safe: hardware that would find a mapping later still goes on; the model stops. -/
  | generateUnended
deriving DecidableEq, Repr

/-- Why the model refuses to go on. All are safe: they stop where the spec says a model refuses. -/
inductive Refusal where
  /-- Raised by `exec` for an instruction that has no meaning in the model. Safe. -/
  | notModelled (mnemonic : String)
  /-- Raised by `step` for a command word that names no operation (R94 a b, R85, I19), or an index of 10 to 15 (R62, R94 e,
  I21). Safe. -/
  | undecodable (why : DecodeError)
  /-- Raised by `step`, and by DISPATCH, AUTO and START, in a state whose `RSTATE` is 5, 6 or 7 (R94 b, I20; log 17). Safe. -/
  | reservedRState (code : RState)
  /-- Raised by DISPATCH in SUCCESS or FAILURE (R85: "cannot occur"). Safe. -/
  | eventInTerminalState
  /-- Raised when `MAP` is indexed with 10 to 15 (R62). Safe. -/
  | mapIndex
  /-- Raised when a light pattern is formed of an index above 9 (R93, R94 e, I21). Safe. -/
  | mapEntry
  /-- Raised by an operation on a button or lane above 9 (R94 e, I21). Safe. -/
  | buttonIndex
  /-- Raised by `step` in a configuration with an `ACTIVE_SIZE` outside 2 to 10, and by START when it would use it (R7,
  R235 b, I22; log 17). Safe. -/
  | activeSize (n : Nat)
deriving DecidableEq, Repr

/-- The stored fields of `PINCTL` (R35). `BUS_PULLUP` is hard-wired 0 and has no storage (log 24). -/
structure PinCtl where
  busOut : Byte
  busDir : Bool
  stbLo : Bool
  stbHi : Bool
  oeLoN : Bool
  oeHiN : Bool
deriving DecidableEq, Repr

/-- What an operation returns to whoever invoked it (R99; log 20). -/
inductive Ret where
  | nothing
  | byte (v : Byte)
  | set (p : Pattern)
  | bit (b : Bool)
  | events (es : List EventRec)
deriving DecidableEq, Repr

/-- How far a step had come when `rst_n` fell in the middle of it (R264; log 18): micro-operations performed, RAND
words taken, events emitted. -/
structure Cut where
  micro : Nat
  words : Nat
  events : Nat
deriving DecidableEq, Repr

/-- What the environment lines up for one step: the command, the switch levels if they change, and the reset that
falls in the middle of it if one does (log 1, 18, 25). -/
structure Cmd where
  word : CmdWord
  sw : Option Pattern
  cut : Option Cut
deriving DecidableEq, Repr

/-- Everything the spec gives the machine, the environment it talks to, and the model's own fields. -/
structure State where
  /-- The OPEN parameters (R6); written by nothing. -/
  cfg : Config
  -- block registers (R20)
  /-- `DEB` (R21). -/
  deb : Pattern
  /-- `LAST_RAW` (R22). -/
  lastRaw : Pattern
  /-- `TICK` (R23). -/
  tick : Stamp
  /-- `RD_LO` (R24). -/
  rdLo : Byte
  /-- `RD_HI` (R24). -/
  rdHi : Byte
  /-- `MAP[0..9]` (R25). -/
  map : Vector Index 10
  /-- `DIFF` (R26). -/
  diff : BitVec 2
  /-- `NACT` (R27). -/
  nact : Index
  /-- `RSTATE` (R28). -/
  rstate : RState
  /-- `PCUR` (R29). -/
  pcur : Index
  /-- `RCUR` (R30). -/
  rcur : Index
  /-- `LIGHTS` (R31). -/
  lights : Pattern
  /-- `OUT_VALID` (R32). -/
  outValid : Bool
  /-- `OUT_SUCCESS` (R32). -/
  outSuccess : Bool
  /-- `OUT_COUNT` (R32). -/
  outCount : Index
  /-- `SCORE` (R33; log 16). -/
  score : Nat
  -- pin registers (R35)
  /-- `PINCTL` (R35). -/
  pin : PinCtl
  -- sequencing state (R37)
  /-- `LANE` (R37; log 14). -/
  lane : BitVec 4
  /-- `USTEP` (R37; log 15). -/
  ustep : Nat
  -- environment state (R40 to R45)
  /-- `OUT_LATCH_LO` (R40). -/
  outLatchLo : Byte
  /-- `OUT_LATCH_HI` (R40). -/
  outLatchHi : Byte
  /-- `SW` (R41). -/
  sw : Pattern
  /-- The words the RAND stream will deliver next, in order (R45, R96; log 5). -/
  rand : List Byte
  /-- How many words of the RAND stream were taken (R45). -/
  randPos : Nat
  /-- Micro-operations issued since the low input bank was enabled (R36; log 11). -/
  settleLo : Nat
  /-- Micro-operations issued since the high input bank was enabled (R36; log 11). -/
  settleHi : Nat
  -- outputs of the current step that are no registers (R12, R43, R99)
  /-- The event list of the current step (R12, R43; log 19). -/
  events : List EventRec
  /-- The pin trace of the current step (R8, R82; log 19). -/
  trace : List TraceEntry
  /-- What the last value-returning operation returned (R99; log 20). -/
  ret : Ret
  -- the model's own
  /-- The free value lines 7:2 of the high input bank show at the next read (R41, I11; log 7). -/
  freeHi : BitVec 6
  /-- The counter free values are drawn with (log 6). -/
  freeCtr : Nat
  /-- The commands the environment has lined up, oldest first (log 1). -/
  inbox : List Cmd
deriving DecidableEq, Repr

/-- The machine right after reset (R47), with the defaults of R6 for the OPEN parameters. The output latches, `SW`,
the RAND stream and the model's own fields have no reset value in the spec: log 1, 4, 5, 6, 7, 8, 9, 19, 20. -/
def State.reset : State :=
  { cfg := Config.default
    deb := 0x000#10, lastRaw := 0x000#10, tick := 0#32, rdLo := 0x00#8, rdHi := 0x00#8
    map := #v[0#4, 1#4, 2#4, 3#4, 4#4, 5#4, 6#4, 7#4, 8#4, 9#4]
    diff := 0#2, nact := 0#4, rstate := 0#3, pcur := 0#4, rcur := 0#4, lights := 0x000#10
    outValid := false, outSuccess := false, outCount := 0#4, score := 0
    pin := { busOut := 0x00#8, busDir := false, stbLo := false, stbHi := false, oeLoN := true, oeHiN := true }
    lane := 0#4, ustep := 0
    outLatchLo := 0x00#8, outLatchHi := 0x00#8, sw := 0x000#10, rand := [], randPos := 0, settleLo := 0, settleHi := 0
    events := [], trace := [], ret := .nothing
    freeHi := 0#6, freeCtr := 0, inbox := [] }

end Sys2Proof.Machine
end

