-- ==== Sys2Proof/Machine/Flags.lean ====
section
/-! DEFINITION. The only status flags of the hardware, `OUT_VALID`, `OUT_SUCCESS`, `OUT_COUNT` (10_state.md R32), the
outputs computed from registers (R34, R43, 30_encoding.md R90), and the score's saturating sum (44_score.md R220). -/

namespace Sys2Proof.Machine

/-- START and ABORT clear all three outcome registers (R181, R197, C11). -/
def clearOutcome (s : State) : State :=
  { s with outValid := false, outSuccess := false, outCount := 0#4 }

/-- REPORT_SUCCESS and REPORT_FAILURE write all three (R194, R195). -/
def setOutcome (success : Bool) (count : Index) (s : State) : State :=
  { s with outValid := true, outSuccess := success, outCount := count }

/-- R34: `BUSY`, the output `RSTATE != IDLE`. -/
def State.busy (s : State) : Bool := s.rstate != 0#3

/-- R90: the outcome word `{OUT_VALID, OUT_SUCCESS, OUT_COUNT}`. -/
def State.outcomeWord (s : State) : BitVec 6 :=
  BitVec.ofBool s.outValid ++ (BitVec.ofBool s.outSuccess ++ s.outCount)

/-- R220: the sum formed without wrap-around, then bounded by `SCORE_MAX`. -/
def saturatingScore (c : Config) (score : Nat) (count : Index) : Nat :=
  min (score + count.toNat) c.scoreMax

/-- R220: RECORD adds the count whatever the success bit says. -/
def addScore (count : Index) (s : State) : State :=
  { s with score := saturatingScore s.cfg s.score count }

end Sys2Proof.Machine
end

