-- ==== Sys2Proof/WellFormed.lean ====
section
/-! DEFINITION. The operand domains of the spec as a check: R84 and R144 (button 0 to 9), R142 (lane 0 to 9), R164
(0 <= j <= i <= 9), R220 (count 0 to 10), and the transition each event operation of format K takes (R186 to R192); and
which of them a model refuses. -/

namespace Sys2Proof

/-- A button index or lane of the board: 0 to 9 (R84, R142). -/
def onBoard (i : Index) : Bool := decide (i.toNat ≤ 9)

/-- The check of an event operand whose transition the operation's pattern fixes. -/
def eventProblem (e : EventRec) (pressed : Bool) : Option IllFormed :=
  if !onBoard e.button then some .buttonRange
  else if e.tr == pressed then none
  else some .transition

/-- The first reason why an instruction's operands are outside their domain, if there is one. -/
def Instr.problem : Instr → Option IllFormed
  | .debounce i _ => if onBoard i then none else some .laneRange
  | .emit i _ => if onBoard i then none else some .buttonRange
  | .gSwap i j =>
    if !(onBoard i && onBoard j) then some .swapRange else if j.toNat ≤ i.toNat then none else some .swapOrder
  | .record _ c => if c.toNat ≤ 10 then none else some .countRange
  | .dispatch e => if onBoard e.button then none else some .buttonRange
  | .evDrop e => if onBoard e.button then none else some .buttonRange
  | .pvRelease e => eventProblem e false
  | .pvIgnore e => eventProblem e true
  | .pvAdvance e => eventProblem e true
  | .rcRelease e => eventProblem e false
  | .rcMiss e => eventProblem e true
  | .rcHit e => eventProblem e true
  | .uNop | .uBusOut _ | .uBusRel | .uStbLo | .uStbHi | .uOeLoOn | .uOeLoOff | .uOeHiOn | .uOeHiOff | .uSampLo
  | .uSampHi | .busWrite _ _ | .busRead _ | .writeLights _ | .readSwitches | .sample | .generate | .gInit | .gCheck
  | .noreq | .start _ | .sessionReset | .abort | .tick _ | .auto | .pvDone | .rcDone | .reportSuccess
  | .reportFailure | .reset => none

/-- Every operand is in the domain the spec gives it. -/
def Instr.wellFormed (i : Instr) : Bool := i.problem.isNone

/-- What the spec has a model refuse: an index of 10 to 15 (R62, R94 e, I21). On other operands outside their domain an
operation runs (log 10, 22). -/
def IllFormed.refused : IllFormed → Bool
  | .laneRange | .buttonRange | .swapRange => true
  | .swapOrder | .countRange | .transition => false

/-- Every index is one of the board: the operands on which an operation runs. -/
def Instr.indicesOnBoard (i : Instr) : Bool := !(i.problem.any IllFormed.refused)

end Sys2Proof
end

