-- ==== Sys2Proof/Decode.lean ====
section
/-! DEFINITION. Codes and formats of 30_encoding.md: the selection tables of formats U, Q, K, A and M (R82 to R86,
R98), the event record (R84), the model's command word over them (log 2) with its encoder, and the step words of
the stimulus notation (R96). -/

namespace Sys2Proof

/-! ### Format E: the event record (R84) -/

/-- The 37-bit event record: `ts` in 36:5, `tr` in 4, `button` in 3:0 (R84). -/
def EventRec.toWord (e : EventRec) : BitVec 37 :=
  e.ts ++ (BitVec.ofBool e.tr ++ e.button)

/-- The event a 37-bit record holds (R84). -/
def EventRec.ofWord (w : BitVec 37) : EventRec :=
  { ts := w.extractLsb' 5 32, tr := w.getLsbD 4, button := w.extractLsb' 0 4 }

/-! ### Selection by key: formats K, A and Q -/

/-- R85: the event operation a dispatch key `{RSTATE, tr, HIT}` selects, if it selects one. -/
def selectEvent (k : BitVec 5) : Option EvOp :=
  let state := k.extractLsb' 2 3
  let pressed := k.getLsbD 1
  let hit := k.getLsbD 0
  if state = 0#3 then some .drop
  else if state = 1#3 then
    if !pressed then some .pvRelease else if hit then some .pvAdvance else some .pvIgnore
  else if state = 2#3 then
    if !pressed then some .rcRelease else if hit then some .rcHit else some .rcMiss
  else none

/-- R86: the automatic operation a key `{RSTATE, FULL}` selects, if it selects one. -/
def selectAuto (a : BitVec 4) : Option AutoOp :=
  let state := a.extractLsb' 1 3
  let full := a.getLsbD 0
  if state = 1#3 then if full then some .pvDone else none
  else if state = 2#3 then if full then some .rcDone else none
  else if state = 3#3 then some .reportSuccess
  else if state = 4#3 then some .reportFailure
  else none

/-- R83 and R205: the one operation a request word performs, by priority from bit 4 down; lower bits set beside a
higher one are ignored. -/
def selectRequest (q : BitVec 5) : Instr :=
  if q.getLsbD 4 then .abort
  else if q.getLsbD 3 then .sessionReset
  else if q.getLsbD 2 then .start (q.extractLsb' 0 2)
  else .noreq

/-- The instruction of an event operation on its event. -/
def EvOp.instr (op : EvOp) (e : EventRec) : Instr :=
  match op with
  | .drop => .evDrop e
  | .pvRelease => .pvRelease e
  | .pvIgnore => .pvIgnore e
  | .pvAdvance => .pvAdvance e
  | .rcRelease => .rcRelease e
  | .rcMiss => .rcMiss e
  | .rcHit => .rcHit e

/-- The instruction of an automatic operation. -/
def AutoOp.instr (op : AutoOp) : Instr :=
  match op with
  | .pvDone => .pvDone
  | .rcDone => .rcDone
  | .reportSuccess => .reportSuccess
  | .reportFailure => .reportFailure

/-! ### The command word (log 2)

Bits 4:0 hold the code of the table, right-aligned; bits 7:5 a format selector; bits 47:8 the operands the spec says are
not part of the code (R82, R84, R99), right-aligned. The encoder leaves unused bits 0; the decoder does not look at operand
bits that the operation does not have, nor at bit 4 of a 4-bit code. Selectors: 0 M, 1 U, 2 Q, 3 K, 4 A. -/

/-- An operation with `w` bits of operands; the bits above them are not looked at. -/
def withOperand (w : Nat) (opnd : BitVec 40) (f : BitVec w → Instr) : Except DecodeError Instr :=
  .ok (f (opnd.setWidth w))

/-- The bank an operand bit names. -/
def Bank.ofBit (b : Bool) : Bank := if b then .hi else .lo

/-- The operand bit that names a bank. -/
def Bank.toBit (b : Bank) : Bool :=
  match b with
  | .lo => false
  | .hi => true

/-- Format U (R82, R81). -/
def decodeMicro (code : BitVec 4) (opnd : BitVec 40) : Except DecodeError Instr :=
  match code.toNat with
  | 0 => .ok .uNop
  | 1 => withOperand 8 opnd .uBusOut
  | 2 => .ok .uBusRel
  | 3 => .ok .uStbLo
  | 4 => .ok .uStbHi
  | 5 => .ok .uOeLoOn
  | 6 => .ok .uOeLoOff
  | 7 => .ok .uOeHiOn
  | 8 => .ok .uOeHiOff
  | 9 => .ok .uSampLo
  | 10 => .ok .uSampHi
  | _ => .error .reservedMicroCode

/-- Format M (R98, R99): operands are packed in the order R99 lists them, the last lowest, but for EMIT, whose transition
stands in bit 4 above its button in bits 3:0, as in the event record of R84. The spec is silent on all of this packing:
DESIGN CHOICE (log 2). -/
def decodeMacro (code : BitVec 4) (opnd : BitVec 40) : Except DecodeError Instr :=
  match code.toNat with
  | 0 => withOperand 10 opnd .tick
  | 1 => .ok .sample
  | 2 => .ok .readSwitches
  | 3 => withOperand 10 opnd .writeLights
  | 4 => withOperand 14 opnd (fun w => .debounce (w.extractLsb' 10 4) (w.extractLsb' 0 10))
  | 5 => withOperand 5 opnd (fun w => .emit (w.extractLsb' 0 4) (w.getLsbD 4))
  | 6 => .ok .generate
  | 7 => .ok .gInit
  | 8 => withOperand 8 opnd (fun w => .gSwap (w.extractLsb' 4 4) (w.extractLsb' 0 4))
  | 9 => .ok .gCheck
  | 10 => withOperand 5 opnd (fun w => .record (w.getLsbD 4) (w.extractLsb' 0 4))
  | 11 => withOperand 37 opnd (fun w => .dispatch (EventRec.ofWord w))
  | 12 => .ok .auto
  | 13 => withOperand 9 opnd (fun w => .busWrite (Bank.ofBit (w.getLsbD 8)) (w.extractLsb' 0 8))
  | 14 => withOperand 1 opnd (fun w => .busRead (Bank.ofBit (w.getLsbD 0)))
  | _ => .ok .reset

/-- Format Q (R83). -/
def decodeRequest (code : BitVec 5) : Except DecodeError Instr :=
  .ok (selectRequest code)

/-- Format K (R85): the code is the dispatch key, the operand the event taken. -/
def decodeEvent (code : BitVec 5) (opnd : BitVec 40) : Except DecodeError Instr :=
  match selectEvent code with
  | some op => withOperand 37 opnd (fun w => op.instr (EventRec.ofWord w))
  | none => if 5 ≤ (code.extractLsb' 2 3).toNat then .error .reservedStateKey else .error .impossibleEventKey

/-- Format A (R86): the code is the automatic key. -/
def decodeAuto (code : BitVec 4) : Except DecodeError Instr :=
  match selectAuto code with
  | some op => .ok op.instr
  | none => if 5 ≤ (code.extractLsb' 1 3).toNat then .error .reservedStateKey else .error .noAutoOperation

/-- The format that a selector names. Selector 0 is a bare code of the table: M, whose sixteen codes are the
operations other operations invoke by name, except that bit 4 is set in no pattern of the table but ABORT's
(log 2). -/
def decodeFields (format : BitVec 3) (code : BitVec 5) (opnd : BitVec 40) : Except DecodeError Instr :=
  match format.toNat with
  | 0 => if code.getLsbD 4 then decodeRequest code else decodeMacro (code.setWidth 4) opnd
  | 1 => decodeMicro (code.setWidth 4) opnd
  | 2 => decodeRequest code
  | 3 => decodeEvent code opnd
  | 4 => decodeAuto (code.setWidth 4)
  | _ => .error .unknownFormat

/-- An instruction whose indices are of the board, or the name of what is wrong with them. -/
def checkOperands (i : Instr) : Except DecodeError Instr :=
  match i.problem with
  | none => .ok i
  | some why => if why.refused then .error (.illFormed why) else .ok i

/-- The instruction a command word names; total, rejecting by name. -/
def decode (w : CmdWord) : Except DecodeError Instr :=
  match decodeFields (w.extractLsb' 5 3) (w.extractLsb' 0 5) (w.extractLsb' 8 40) with
  | .ok i => checkOperands i
  | .error e => .error e

/-! ### The encoder -/

/-- A command word from its fields. -/
def packCommand (format : BitVec 3) (code : BitVec 5) (opnd : BitVec 40) : CmdWord :=
  opnd ++ (format ++ code)

/-- A format M word. -/
def packMacro (code : Nat) (opnd : BitVec 40) : CmdWord := packCommand 0#3 (BitVec.ofNat 5 code) opnd

/-- A format U word. -/
def packMicro (code : Nat) (opnd : BitVec 40) : CmdWord := packCommand 1#3 (BitVec.ofNat 5 code) opnd

/-- A format K word: the key of the pattern (bits that do not take part are 0) and the event record. -/
def packEvent (code : Nat) (e : EventRec) : CmdWord :=
  packCommand 3#3 (BitVec.ofNat 5 code) (e.toWord.setWidth 40)

/-- The command word of an instruction, codes from the table of R81. -/
def encode (i : Instr) : CmdWord :=
  match i with
  | .uNop => packMicro 0b0000 0
  | .uBusOut d => packMicro 0b0001 (d.setWidth 40)
  | .uBusRel => packMicro 0b0010 0
  | .uStbLo => packMicro 0b0011 0
  | .uStbHi => packMicro 0b0100 0
  | .uOeLoOn => packMicro 0b0101 0
  | .uOeLoOff => packMicro 0b0110 0
  | .uOeHiOn => packMicro 0b0111 0
  | .uOeHiOff => packMicro 0b1000 0
  | .uSampLo => packMicro 0b1001 0
  | .uSampHi => packMicro 0b1010 0
  | .busWrite bank v => packMacro 0b1101 ((BitVec.ofBool bank.toBit ++ v).setWidth 40)
  | .busRead bank => packMacro 0b1110 ((BitVec.ofBool bank.toBit).setWidth 40)
  | .writeLights p => packMacro 0b0011 (p.setWidth 40)
  | .readSwitches => packMacro 0b0010 0
  | .sample => packMacro 0b0001 0
  | .debounce i raw => packMacro 0b0100 ((i ++ raw).setWidth 40)
  | .emit i t => packMacro 0b0101 ((BitVec.ofBool t ++ i).setWidth 40)
  | .generate => packMacro 0b0110 0
  | .gInit => packMacro 0b0111 0
  | .gSwap i j => packMacro 0b1000 ((i ++ j).setWidth 40)
  | .gCheck => packMacro 0b1001 0
  | .noreq => packCommand 2#3 0b00000#5 0
  | .start d => packCommand 2#3 (0b001#3 ++ d) 0
  | .sessionReset => packCommand 2#3 0b01000#5 0
  | .abort => packCommand 2#3 0b10000#5 0
  | .tick sw => packMacro 0b0000 (sw.setWidth 40)
  | .dispatch e => packMacro 0b1011 (e.toWord.setWidth 40)
  | .auto => packMacro 0b1100 0
  | .evDrop e => packEvent 0b00000 e
  | .pvRelease e => packEvent 0b00100 e
  | .pvIgnore e => packEvent 0b00110 e
  | .pvAdvance e => packEvent 0b00111 e
  | .rcRelease e => packEvent 0b01000 e
  | .rcMiss e => packEvent 0b01010 e
  | .rcHit e => packEvent 0b01011 e
  | .pvDone => packCommand 4#3 0b00011#5 0
  | .rcDone => packCommand 4#3 0b00101#5 0
  | .reportSuccess => packCommand 4#3 0b00110#5 0
  | .reportFailure => packCommand 4#3 0b01000#5 0
  | .record s c => packMacro 0b1010 ((BitVec.ofBool s ++ c).setWidth 40)
  | .reset => packMacro 0b1111 0

/-! ### Step words of the stimulus notation (R96): no hardware decodes them (log 21) -/

/-- The operation a 16-bit step word `{kind, 0000, arg}` stands for (R96): kind 0 RESET with argument 0, 1 a request
word, 2 a TICK with the ten switch levels. -/
def decodeStepWord (w : BitVec 16) : Option Instr :=
  let arg := w.extractLsb' 0 10
  if w.extractLsb' 10 4 ≠ 0#4 then none
  else match (w.extractLsb' 14 2).toNat with
    | 0 => if arg = 0#10 then some .reset else none
    | 1 => if arg.toNat < 32 then some (selectRequest (arg.setWidth 5)) else none
    | 2 => some (.tick arg)
    | _ => none

/-- The step word of an environment step; the other operations have none. -/
def encodeStepWord (i : Instr) : Option (BitVec 16) :=
  match i with
  | .reset => some 0x0000#16
  | .noreq => some 0x4000#16
  | .start d => some (0x4004#16 ||| d.setWidth 16)
  | .sessionReset => some 0x4008#16
  | .abort => some 0x4010#16
  | .tick sw => some (0x8000#16 ||| sw.setWidth 16)
  | _ => none

/-! ### The host's view of the table's words -/

/-- The command word whose low `nbits` bits are those of `w` and whose other bits are 0. -/
def tableWord (nbits w : Nat) : CmdWord := BitVec.ofNat 48 (w % 2 ^ nbits)

/-- The instruction the decoder reads from a word of the opcode table; the selector bits of such a word are 0
(log 2: codes that several formats share are read as format M). -/
def decodeTableWord (nbits w : Nat) : Option Instr :=
  match decode (tableWord nbits w) with
  | .ok i => some i
  | .error _ => none

end Sys2Proof
end

