-- ==== Sys2Proof/Machine/Operands.lean ====
section
/-! DEFINITION. Operand assembly (30_encoding.md section 8), the views of `PINCTL` and of the keypad, the input banks,
the shared bus's value (10_state.md rules R35, R36, R40, R41), and the two dispatch keys (R85, R86). -/

namespace Sys2Proof.Machine

/-! ### `RSTATE` codes (R87) -/

/-- IDLE, code 0. -/
abbrev stIdle : RState := 0#3
/-- PREVIEW, code 1. -/
abbrev stPreview : RState := 1#3
/-- RECALL, code 2. -/
abbrev stRecall : RState := 2#3
/-- SUCCESS, code 3. -/
abbrev stSuccess : RState := 3#3
/-- FAILURE, code 4. -/
abbrev stFailure : RState := 4#3

/-! ### Patterns, bytes and indices (R91 to R93) -/

/-- R91: the pattern zero-extended to 16 bits and inverted. -/
def invertedPattern (p : Pattern) : BitVec 16 := ~~~(p.setWidth 16)

/-- R91: `byte_lo`, the inverted positions 0 to 7. -/
def byteLo (p : Pattern) : Byte := (invertedPattern p).extractLsb' 0 8

/-- R91: `byte_hi`, the inverted positions 8 and 9 under six ones. -/
def byteHi (p : Pattern) : Byte := (invertedPattern p).extractLsb' 8 8

/-- R92: the pressed set of the two sampled bytes, inverted and masked with 0x03FF. -/
def pressedSet (hi lo : Byte) : Pattern :=
  ((~~~(hi ++ lo)) &&& 0x03FF#16).setWidth 10

/-- R93: `onehot(i)` for i in 0 to 9; above 9 there is none. -/
def onehot (i : Index) : Option Pattern :=
  if i.toNat ≤ 9 then some (1#10 <<< i.toNat) else none

/-- A set with bit i replaced. -/
def putBit (v : Pattern) (i : Nat) (b : Bool) : Pattern :=
  if b then v ||| (1#10 <<< i) else v &&& ~~~(1#10 <<< i)

/-- `ACTIVE_SIZE(d)` (R6, R89); the reserved code 11 has none (R182). -/
def activeSize (c : Config) (d : BitVec 2) : Option Nat :=
  match d.toNat with
  | 0 => some c.activeEasy
  | 1 => some c.activeMedium
  | 2 => some c.activeHard
  | _ => none

/-- The first size that is outside 2 to 10, if the configuration has one (R7, R235 b, I22). -/
def illegalSize (c : Config) : Option Nat :=
  [c.activeEasy, c.activeMedium, c.activeHard].find? fun n => decide (n < 2 ∨ 10 < n)

/-- How long a bank must have been enabled: `SETTLE_CYCLES`, at least 2 (R6, R122, R235 c; log 11). -/
def settleNeed (c : Config) : Nat := max 2 c.settleCycles

/-! ### `PINCTL` -/

/-- The 14-bit register of R35; bit 9, `BUS_PULLUP`, is hard-wired 0. -/
def PinCtl.toWord (p : PinCtl) : BitVec 14 :=
  BitVec.ofBool p.oeHiN ++ (BitVec.ofBool p.oeLoN ++ (BitVec.ofBool p.stbHi ++ (BitVec.ofBool p.stbLo ++
    (0#1 ++ (BitVec.ofBool p.busDir ++ p.busOut)))))

/-- R123: the neutral state, bits 13:8 of `PINCTL` are 110000. -/
def PinCtl.neutral (p : PinCtl) : Bool :=
  p.oeHiN && p.oeLoN && !p.stbHi && !p.stbLo && !p.busDir

/-- R36: how many drive the bus: the block, the low input latch, the high input latch. -/
def PinCtl.drivers (p : PinCtl) : Nat :=
  (if p.busDir then 1 else 0) + (if p.oeLoN then 0 else 1) + (if p.oeHiN then 0 else 1)

/-! ### The keypad's side of the bus -/

/-- R41: `IN_LO`, the inverted switches 0 to 7. -/
def inLo (sw : Pattern) : Byte := ~~~(sw.extractLsb' 0 8)

/-- R41: `IN_HI`, the inverted switches 8 and 9 under six lines of any value. -/
def inHi (unused : BitVec 6) (sw : Pattern) : Byte := unused ++ ~~~(sw.extractLsb' 8 2)

/-- R40, R128: light i is lit exactly when its output latch bit is 0. -/
def State.lit (s : State) (i : Nat) : Bool :=
  if i < 8 then !s.outLatchLo.getLsbD i
  else if i < 10 then !s.outLatchHi.getLsbD (i - 8)
  else false

/-- What is on the bus (R36). -/
inductive BusLevel where
  /-- Two or more drivers. -/
  | contention
  /-- The block drives its byte. -/
  | driven (b : Byte)
  /-- The low input bank, settled. -/
  | lowBank
  /-- The high input bank, settled. -/
  | highBank
  /-- Nobody drives, or the enabled bank has not settled: any value. -/
  | any
deriving DecidableEq, Repr

/-- R36: the bus resolved from `PINCTL` and the settle counts. -/
def resolveBus (s : State) : BusLevel :=
  if 2 ≤ s.pin.drivers then .contention
  else if s.pin.busDir then .driven s.pin.busOut
  else if !s.pin.oeLoN then if settleNeed s.cfg ≤ s.settleLo then .lowBank else .any
  else if !s.pin.oeHiN then if settleNeed s.cfg ≤ s.settleHi then .highBank else .any
  else .any

/-! ### The dispatch keys -/

/-- R62: `MAP[i]`, for i in 0 to 9. -/
def mapAt (s : State) (i : Index) : Option Index := s.map[i.toNat]?

/-- R85: the comparator `HIT`. In RECALL it reads `MAP[e.button]`: a button, or an entry, of 10 to 15 is refused
(R62, R94 e). -/
def hitBit (s : State) (e : EventRec) : Except Refusal Bool :=
  if s.rstate = stPreview then .ok (e.button == s.pcur)
  else if s.rstate = stRecall then
    match mapAt s e.button with
    | some light => if light.toNat ≤ 9 then .ok (light == s.rcur) else .error .mapEntry
    | none => .error .mapIndex
  else .ok false

/-- R85: the dispatch key `{RSTATE, e.tr, HIT}`. -/
def eventKey (s : State) (e : EventRec) (hit : Bool) : BitVec 5 :=
  s.rstate ++ (BitVec.ofBool e.tr ++ BitVec.ofBool hit)

/-- R86: `FULL`. -/
def fullBit (s : State) : Bool :=
  if s.rstate = stPreview then s.pcur == s.nact
  else if s.rstate = stRecall then s.rcur == s.nact
  else false

/-- R86: the automatic key `{RSTATE, FULL}`. -/
def autoKey (s : State) : BitVec 4 := s.rstate ++ BitVec.ofBool (fullBit s)

end Sys2Proof.Machine
end

