-- ==== Sys2Proof/Machine/Ops.lean ====
section
/-! DEFINITION. The shared operations: micro-operations and bus sequences (40_signaling.md), lanes and events
(41_debounce.md), the register file and the RAND stream (42_mapping_generator.md), and the end and the beginning of a
round (60_exceptions.md R238, R240), which stand where other hardware enters and leaves an exception. -/

namespace Sys2Proof.Machine

/-- The outcome of an operation. -/
abbrev Res := Host.Outcome State Fault Refusal

/-- Operations in the order written (R10): a later one sees the earlier one's state, and a stop stops all. -/
def andThen (r : Res) (f : State → Res) : Res :=
  match r with
  | .next s => f s
  | .fault x => .fault x
  | .refused x => .refused x

/-! ### Micro-operations (R111 to R121) -/

/-- The end of a micro-operation's clock cycle: BusContention if two or more drive the bus (R36, R234); otherwise
the pin trace gets `{code, data}`, `USTEP` advances by one, and an enabled bank has settled one cycle more. -/
def endCycle (code : BitVec 4) (data : Byte) (s : State) : Res :=
  if 2 ≤ s.pin.drivers then .fault .busContention
  else .next { s with
    trace := s.trace ++ [code ++ data]
    ustep := s.ustep + 1
    settleLo := if s.pin.oeLoN then s.settleLo else s.settleLo + 1
    settleHi := if s.pin.oeHiN then s.settleHi else s.settleHi + 1 }

/-- Takes the bus's value (R36) and goes on with it. A value the spec leaves open is a free value: `freeByte` of the
counter, or `freeHi` for the unused lines of the high bank, which then shows another (log 6, 7). -/
def withBus (s : State) (f : Byte → State → Res) : Res :=
  match resolveBus s with
  | .contention => .fault .busContention
  | .driven b => f b s
  | .lowBank => f (inLo s.sw) s
  | .highBank =>
    f (inHi s.freeHi s.sw) { s with freeHi := Config.freeHigh s.freeCtr, freeCtr := s.freeCtr + 1 }
  | .any => f (Config.freeByte s.freeCtr) { s with freeCtr := s.freeCtr + 1 }

/-- U_NOP (R111). -/
def microNop (s : State) : Res := endCycle 0x0#4 0x00#8 s

/-- U_BUS_OUT(d) (R112). -/
def microBusOut (d : Byte) (s : State) : Res :=
  endCycle 0x1#4 d { s with pin := { s.pin with busOut := d, busDir := true } }

/-- U_BUS_REL (R113). -/
def microBusRel (s : State) : Res :=
  endCycle 0x2#4 0x00#8 { s with pin := { s.pin with busDir := false } }

/-- U_STB_LO (R114): the strobe is 1 while the latch takes the bus, and 0 at the end of the cycle. -/
def microStbLo (s : State) : Res :=
  withBus { s with pin := { s.pin with stbLo := true } } fun b t =>
    endCycle 0x3#4 0x00#8 { t with outLatchLo := b, pin := { t.pin with stbLo := false } }

/-- U_STB_HI (R115). -/
def microStbHi (s : State) : Res :=
  withBus { s with pin := { s.pin with stbHi := true } } fun b t =>
    endCycle 0x4#4 0x00#8 { t with outLatchHi := b, pin := { t.pin with stbHi := false } }

/-- U_OE_LO_ON (R116): the settle count starts at 0. -/
def microOeLoOn (s : State) : Res :=
  andThen (endCycle 0x5#4 0x00#8 { s with pin := { s.pin with oeLoN := false } }) fun t =>
    .next { t with settleLo := 0 }

/-- U_OE_LO_OFF (R117). -/
def microOeLoOff (s : State) : Res :=
  endCycle 0x6#4 0x00#8 { s with pin := { s.pin with oeLoN := true }, settleLo := 0 }

/-- U_OE_HI_ON (R118): the settle count starts at 0. -/
def microOeHiOn (s : State) : Res :=
  andThen (endCycle 0x7#4 0x00#8 { s with pin := { s.pin with oeHiN := false } }) fun t =>
    .next { t with settleHi := 0 }

/-- U_OE_HI_OFF (R119). -/
def microOeHiOff (s : State) : Res :=
  endCycle 0x8#4 0x00#8 { s with pin := { s.pin with oeHiN := true }, settleHi := 0 }

/-- U_SAMP_LO (R120). -/
def microSampLo (s : State) : Res :=
  withBus s fun b t => endCycle 0x9#4 0x00#8 { t with rdLo := b }

/-- U_SAMP_HI (R121). -/
def microSampHi (s : State) : Res :=
  withBus s fun b t => endCycle 0xA#4 0x00#8 { t with rdHi := b }

/-! ### Bus sequences (R124 to R127, R198) -/

/-- BUS_WRITE (R124): the byte on the bus, then the bank's strobe. -/
def busWriteSeq (bank : Bank) (v : Byte) (s : State) : Res :=
  match bank with
  | .lo => andThen (microBusOut v s) microStbLo
  | .hi => andThen (microBusOut v s) microStbHi

/-- The settle wait of R125: `n` times U_NOP. -/
def nopSeq : Nat → State → Res
  | 0, s => .next s
  | n + 1, s => andThen (microNop s) (nopSeq n)

/-- BUS_READ (R125): enable, wait, sample, disable. -/
def busReadSeq (bank : Bank) (s : State) : Res :=
  match bank with
  | .lo =>
    andThen (andThen (andThen (microOeLoOn s) (nopSeq s.cfg.settleCycles)) microSampLo) microOeLoOff
  | .hi =>
    andThen (andThen (andThen (microOeHiOn s) (nopSeq s.cfg.settleCycles)) microSampHi) microOeHiOff

/-- The byte BUS_READ returns (R125). -/
def bankByte (bank : Bank) (s : State) : Byte :=
  match bank with
  | .lo => s.rdLo
  | .hi => s.rdHi

/-- `USTEP` at the beginning and at the end of an entry point of the signaling layer (R37; log 15). -/
def restartUstep (s : State) : State := { s with ustep := 0 }

/-- WRITE_LIGHTS (R126): low byte, low strobe, high byte, high strobe, release. -/
def writeLightsSeq (p : Pattern) (s : State) : Res :=
  andThen (andThen (andThen (busWriteSeq .lo (byteLo p) (restartUstep s)) (busWriteSeq .hi (byteHi p))) microBusRel)
    fun t => .next (restartUstep t)

/-- READ_SWITCHES (R127): release, low bank, high bank. -/
def readSwitchesSeq (s : State) : Res :=
  andThen (andThen (andThen (microBusRel (restartUstep s)) (busReadSeq .lo)) (busReadSeq .hi))
    fun t => .next (restartUstep t)

/-- The set READ_SWITCHES returns (R127, R92). -/
def switchSet (s : State) : Pattern := pressedSet s.rdHi s.rdLo

/-- `LIGHT(p)` (R198). -/
def lightOp (p : Pattern) (s : State) : Res := writeLightsSeq p { s with lights := p }

/-- `LIGHT` of a base pattern with one more light (R186, R190); no pattern is formed of an index above 9 (R93). -/
def lightWith (base : Pattern) (light : Index) (s : State) : Res :=
  match onehot light with
  | some p => lightOp (base ||| p) s
  | none => .refused .mapEntry

/-! ### Lanes and events (R142, R144) -/

/-- EMIT (R144): the record carries the poll count of the running poll, which is `TICK` (log 13). -/
def emitEvent (i : Index) (t : Bool) (s : State) : State :=
  { s with events := s.events ++ [{ ts := s.tick, tr := t, button := i }] }

/-- DEBOUNCE of one lane (R142); `LANE` advances by one (R38). -/
def debounceLane (raw : Pattern) (i : Nat) (s : State) : State :=
  let level := raw.getLsbD i
  let t := { s with lane := s.lane + 1#4 }
  if level == s.lastRaw.getLsbD i && level != s.deb.getLsbD i then
    emitEvent (BitVec.ofNat 4 i) level { t with deb := putBit s.deb i level }
  else t

/-- The lanes of a list, in its order. -/
def scanLanes (raw : Pattern) : List Nat → State → State
  | [], s => s
  | i :: rest, s => scanLanes raw rest (debounceLane raw i s)

/-- The lanes in ascending index (R141, R143). -/
def allLanes : List Nat := [0, 1, 2, 3, 4, 5, 6, 7, 8, 9]

/-- The rest of SAMPLE after the read (R141): the lanes, then `LAST_RAW`, then `TICK` modulo 2^32 (R145). The poll
begins with no event (log 19). -/
def pollSet (raw : Pattern) (s : State) : State :=
  let t := scanLanes raw allLanes { s with events := [], lane := 0#4 }
  { t with lastRaw := raw, tick := t.tick + 1#32, lane := 0#4 }

/-- SAMPLE (R141). -/
def sampleOp (s : State) : Res :=
  andThen (readSwitchesSeq s) fun t => .next (pollSet (switchSet t) t)

/-! ### The register file `MAP` and the RAND stream (R160 to R166) -/

/-- `MAP[i] <- i` for every i (R161). -/
def identityMap : Vector Index 10 := #v[0#4, 1#4, 2#4, 3#4, 4#4, 5#4, 6#4, 7#4, 8#4, 9#4]

/-- G_INIT (R161). -/
def initMap (s : State) : State := { s with map := identityMap }

/-- G_SWAP (R164): exchanges two entries of `MAP`; an index above 9 is refused (R62). -/
def swapEntries (i j : Nat) (s : State) : Res :=
  match s.map[i]?, s.map[j]? with
  | some a, some b => .next { s with map := (s.map.setIfInBounds i b).setIfInBounds j a }
  | _, _ => .refused .mapIndex

/-- The next word of the RAND stream: the first one lined up, or a free value at this position (R45; log 5). -/
def nextRand (s : State) : Byte :=
  match s.rand with
  | w :: _ => w
  | [] => Config.freeRand s.randPos

/-- A word once taken is not taken again (R45). -/
def takeRand (s : State) : State := { s with rand := s.rand.tail, randPos := s.randPos + 1 }

/-- The value `RandSelect(k)` returns (R162). -/
def randChoice (k : Nat) (s : State) : Nat := (nextRand s).toNat % k

/-- The shuffle loop of R160 and R163 from index i down to 1. -/
def shuffle : Nat → State → Res
  | 0, s => .next s
  | i + 1, s => andThen (swapEntries (i + 1) (randChoice (i + 2) s) (takeRand s)) (shuffle i)

/-- G_CHECK (R165): whether every active entry maps to itself. -/
def mapIsIdentity (s : State) : Bool :=
  (List.range s.nact.toNat).all fun i => s.map[i]? == some (BitVec.ofNat 4 i)

/-- One attempt of R160: G_INIT and the shuffle over the active entries. -/
def attempt (s : State) : Res := shuffle (s.nact.toNat - 1) (initMap s)

/-- Attempts until one is not the identity (R160), at most n of them (log 4). -/
def attempts : Nat → State → Res
  | 0, _ => .fault .generateUnended
  | n + 1, s => andThen (attempt s) fun t => if mapIsIdentity t then attempts n t else .next t

/-- GENERATE (R160), one attempt for each RAND word lined up and `attemptFuel` more (log 4). -/
def generateOp (s : State) : Res := attempts (s.rand.length + s.cfg.attemptFuel) s

/-! ### The end of a round and the next one (R238, R240) -/

/-- The end of a round, R238: the outcome is saved, the count is added to `SCORE`, `RSTATE` goes to IDLE. -/
def endRound (success : Bool) (count : Index) (s : State) : State :=
  { addScore count (setOutcome success count s) with rstate := stIdle }

/-- The registers of a new round, R181 and R240, before the lights are put out: cursors 0, outcome cleared. -/
def beginRound (s : State) : State :=
  { clearOutcome s with pcur := 0#4, rcur := 0#4 }

/-- RESET (R261, R262, R263): every block register, pin and sequencing register at its reset value; the output
latches, the switches, the RAND stream and the OPEN parameters are not touched. -/
def resetBlock (s : State) : State :=
  { s with
    deb := 0x000#10, lastRaw := 0x000#10, tick := 0#32, rdLo := 0x00#8, rdHi := 0x00#8
    map := identityMap
    diff := 0#2, nact := 0#4, rstate := stIdle, pcur := 0#4, rcur := 0#4, lights := 0x000#10
    outValid := false, outSuccess := false, outCount := 0#4, score := 0
    pin := { busOut := 0x00#8, busDir := false, stbLo := false, stbHi := false, oeLoN := true, oeHiN := true }
    settleLo := 0, settleHi := 0
    lane := 0#4, ustep := 0 }

end Sys2Proof.Machine
end

