-- ==== Sys2Proof/Machine/Controller.lean ====
section
/-! DEFINITION. The controller family (43_game_fsm.md): the automatic and the event operations, DISPATCH, AUTO, TICK and
the requests. An operation of format K or A performs its pseudocode whatever key the state would form; DISPATCH and
AUTO are what selects it by the key (log 10). -/

namespace Sys2Proof.Machine

/-! ### Automatic operations (format A) -/

/-- PV_DONE (R189). -/
def execPvDone (s : State) : Res :=
  andThen (lightOp 0x000#10 { s with rstate := stRecall }) fun t => .next { t with rcur := 0#4 }

/-- RC_DONE (R193). -/
def execRcDone (s : State) : Res := .next { s with rstate := stSuccess }

/-- REPORT_SUCCESS (R194). -/
def execReportSuccess (s : State) : Res := .next (endRound true s.nact s)

/-- REPORT_FAILURE (R195). -/
def execReportFailure (s : State) : Res := .next (endRound false s.rcur s)

/-- The automatic operation a key selected (R196). -/
def performAuto (op : AutoOp) (s : State) : Res :=
  match op with
  | .pvDone => execPvDone s
  | .rcDone => execRcDone s
  | .reportSuccess => execReportSuccess s
  | .reportFailure => execReportFailure s

/-- The loop of R196, at most n operations; a reserved `RSTATE` code is refused (R86, R94 b). -/
def autoLoop : Nat → State → Res
  | 0, s => .next s
  | n + 1, s =>
    match selectAuto (autoKey s) with
    | some op => andThen (performAuto op s) (autoLoop n)
    | none => if 5 ≤ s.rstate.toNat then .refused (.reservedRState s.rstate) else .next s

/-- AUTO (R196): "the loop ends after at most three operations", so four rounds see it end (log 23). -/
def autoOp (s : State) : Res := autoLoop 4 s

/-- AUTO as an operation of its own (R196). -/
def execAuto (s : State) : Res := autoOp s

/-! ### Event operations (format K) -/

/-- EV_DROP (R185): nothing changes. -/
def execEvDrop (_e : EventRec) (s : State) : Res := .next s

/-- PV_RELEASE (R188): nothing changes. -/
def execPvRelease (_e : EventRec) (s : State) : Res := .next s

/-- PV_IGNORE (R187): nothing changes. -/
def execPvIgnore (_e : EventRec) (s : State) : Res := .next s

/-- PV_ADVANCE (R186): exactly the light `MAP[PCUR]`, then the cursor advances. -/
def execPvAdvance (_e : EventRec) (s : State) : Res :=
  match mapAt s s.pcur with
  | some light => andThen (lightWith 0x000#10 light s) fun t => .next { t with pcur := t.pcur + 1#4 }
  | none => .refused .mapIndex

/-- RC_RELEASE (R192): nothing changes. -/
def execRcRelease (_e : EventRec) (s : State) : Res := .next s

/-- RC_MISS (R191). -/
def execRcMiss (_e : EventRec) (s : State) : Res := .next { s with rstate := stFailure }

/-- RC_HIT (R190): the light is added to those lit, then the cursor advances. DESIGN CHOICE (log 30): performed as a command
of its own with `RCUR` = 15, the 4-bit cursor wraps to 0; R222 says that the sum never leaves 4 bits. -/
def execRcHit (e : EventRec) (s : State) : Res :=
  match mapAt s e.button with
  | some light => andThen (lightWith s.lights light s) fun t => .next { t with rcur := t.rcur + 1#4 }
  | none => .refused .mapIndex

/-- The event operation a key selected (R184). -/
def performEvent (op : EvOp) (e : EventRec) (s : State) : Res :=
  match op with
  | .drop => execEvDrop e s
  | .pvRelease => execPvRelease e s
  | .pvIgnore => execPvIgnore e s
  | .pvAdvance => execPvAdvance e s
  | .rcRelease => execRcRelease e s
  | .rcMiss => execRcMiss e s
  | .rcHit => execRcHit e s

/-! ### DISPATCH and TICK -/

/-- DISPATCH(e) (R184): the key of R85, the operation it selects, then AUTO. -/
def dispatchOp (e : EventRec) (s : State) : Res :=
  if onBoard e.button then
    match hitBit s e with
    | .ok hit =>
      match selectEvent (eventKey s e hit) with
      | some op => andThen (performEvent op e s) autoOp
      | none =>
        if 5 ≤ s.rstate.toNat then .refused (.reservedRState s.rstate) else .refused .eventInTerminalState
    | .error r => .refused r
  else .refused .buttonIndex

/-- DISPATCH as an operation of its own (R184). -/
def execDispatch (e : EventRec) (s : State) : Res := dispatchOp e s

/-- The event loop of TICK (R183): each event against the state the one before left; `LANE` is the button whose
event is taken (R37; log 14). -/
def dispatchAll : List EventRec → State → Res
  | [], s => .next s
  | e :: rest, s => andThen (dispatchOp e { s with lane := e.button }) (dispatchAll rest)

/-- TICK(sw) (R183): SAMPLE with `SW` = sw, then every event of the batch in order. -/
def execTick (sw : Pattern) (s : State) : Res :=
  andThen (sampleOp { s with sw := sw }) fun t =>
    andThen (dispatchAll t.events t) fun u => .next { u with lane := 0#4 }

/-! ### Requests (format Q) -/

/-- NOREQ (R206): nothing changes. -/
def execNoreq (s : State) : Res := .next s

/-- START's effect once accepted (R181), with N the active size of the difficulty. -/
def startRound (d : BitVec 2) (n : Nat) (s : State) : Res :=
  andThen (generateOp { s with diff := d, nact := BitVec.ofNat 4 n }) fun t =>
    andThen (lightOp 0x000#10 (beginRound t)) fun u => autoOp { u with rstate := stPreview }

/-- START(d) (R181); outside IDLE, and for the reserved difficulty, it changes nothing (R182); a reserved `RSTATE` code is
refused (R94 b). -/
def execStart (d : BitVec 2) (s : State) : Res :=
  if 5 ≤ s.rstate.toNat then .refused (.reservedRState s.rstate)
  else if s.rstate = stIdle then
    match activeSize s.cfg d with
    | some n => if 2 ≤ n ∧ n ≤ 10 then startRound d n s else .refused (.activeSize n)
    | none => .next s
  else .next s

/-- ABORT (R197). -/
def execAbort (s : State) : Res := .next (clearOutcome { s with rstate := stIdle })

end Sys2Proof.Machine
end

