-- ==== Sys2Proof/Machine/Debounce.lean ====
section
/-! DEFINITION. The debounce family (41_debounce.md): SAMPLE, DEBOUNCE, EMIT. -/

namespace Sys2Proof.Machine

/-- SAMPLE (R141), returning the event records of this poll. -/
def execSample (s : State) : Res :=
  andThen (sampleOp s) fun t => .next { t with ret := .events t.events }

/-- DEBOUNCE(i, raw) (R142), for a lane of the board. -/
def execDebounce (i : Index) (raw : Pattern) (s : State) : Res :=
  if onBoard i then .next (debounceLane raw i.toNat s) else .refused .buttonIndex

/-- EMIT(i, t) (R144), for a button of the board. -/
def execEmit (i : Index) (t : Bool) (s : State) : Res :=
  if onBoard i then .next (emitEvent i t s) else .refused .buttonIndex

end Sys2Proof.Machine
end

