-- ==== Sys2Proof/Machine/Generator.lean ====
section
/-! DEFINITION. The generator family (42_mapping_generator.md): GENERATE, G_INIT, G_SWAP, G_CHECK. -/

namespace Sys2Proof.Machine

/-- GENERATE (R160). -/
def execGenerate (s : State) : Res := generateOp s

/-- G_INIT (R161). -/
def execGInit (s : State) : Res := .next (initMap s)

/-- G_SWAP(i, j) (R164). -/
def execGSwap (i j : Index) (s : State) : Res := swapEntries i.toNat j.toNat s

/-- G_CHECK (R165), returning 1 for the identity; with an `NACT` above 10 it would index `MAP` beyond 9 (R62). -/
def execGCheck (s : State) : Res :=
  if s.nact.toNat ≤ 10 then .next { s with ret := .bit (mapIsIdentity s) } else .refused .mapIndex

end Sys2Proof.Machine
end

