-- ==== Sys2Proof/Machine/ResetOp.lean ====
section
/-! DEFINITION. RESET (70_reset_and_hazards.md R261 to R263), and a reset in the middle of a step (R264). -/

namespace Sys2Proof.Machine

/-- RESET (R261). -/
def execReset (s : State) : Res := .next (resetBlock s)

/-- The micro-operation of a pin-trace entry (R82), performed. Codes 1011 to 1111 stand in no trace ("no sequence of this
hardware contains them"). -/
def replayEntry (w : TraceEntry) (s : State) : Res :=
  match (w.extractLsb' 8 4).toNat with
  | 0 => microNop s
  | 1 => microBusOut (w.extractLsb' 0 8) s
  | 2 => microBusRel s
  | 3 => microStbLo s
  | 4 => microStbHi s
  | 5 => microOeLoOn s
  | 6 => microOeLoOff s
  | 7 => microOeHiOn s
  | 8 => microOeHiOff s
  | 9 => microSampLo s
  | 10 => microSampHi s
  | _ => .next s

/-- The micro-operations of a trace, in order. -/
def replay : List TraceEntry → State → Res
  | [], s => .next s
  | w :: rest, s => andThen (replayEntry w s) (replay rest)

/-- How many RAND words an interrupted step had taken: all of the step's once its first micro-operation is out, since
GENERATE comes before the only WRITE_LIGHTS of START (R181), and before that what the environment says, at most all
of them (log 18). -/
def wordsTaken (cut : Cut) (before after : Nat) : Nat :=
  if cut.micro = 0 then min cut.words (after - before) else after - before

/-- The RAND stream with n words taken. -/
def dropRand (n : Nat) (s : State) : State := { s with rand := s.rand.drop n, randPos := s.randPos + n }

/-- The cycles of READ_SWITCHES (R127, R125): the release, and for each bank enable, settle wait, sample and disable. -/
def readCycles (c : Config) : Nat := 7 + 2 * c.settleCycles

/-- After how many micro-operations an operation emits its events: SAMPLE, and so TICK, when the switches are read and
before any event is dispatched (R141, R183); the operations that emit without a micro-operation at once. -/
def emitCycle (i : Instr) (c : Config) : Nat :=
  match i with
  | .sample | .tick _ => readCycles c
  | _ => 0

/-- The events that an interrupted step had driven, in program order (R69 a, d): none before the micro-operations that come
before the first EMIT, all once a later one is out, and in between what the environment says (log 27). -/
def eventsDriven (cut : Cut) (point : Nat) (es : List EventRec) : List EventRec :=
  if cut.micro < point then [] else if cut.micro = point then es.take cut.events else es

/-- R264: the reset of a step of `i` that began in `s` and had come to, or would have come to, `t`. The keypad sees the
first micro-operations of the step's pin trace, then the block resets; nothing else of the step remains. -/
def resetWithin (cut : Cut) (i : Instr) (s t : State) : Res :=
  andThen (replay (t.trace.take cut.micro) (dropRand (wordsTaken cut s.randPos t.randPos) { s with sw := t.sw }))
    fun u => .next { resetBlock u with events := eventsDriven cut (emitCycle i s.cfg) t.events }

/-- The state in which READ_SWITCHES meets contention: before its release, or before the enable that follows (R127). -/
def readStop (s : State) : State :=
  match microBusRel (restartUstep s) with
  | .next t => t
  | .fault _ | .refused _ => s

/-- The state in which the events of a poll stop: after those that were dispatched. -/
def dispatchStop : List EventRec → State → State
  | [], s => s
  | e :: rest, s =>
    match dispatchOp e { s with lane := e.button } with
    | .next t => dispatchStop rest t
    | .fault _ | .refused _ => s

/-- The state in which an operation that ends in contention or in a refusal stops. Those that can have performed something
by then are the ones that read the switches, TICK, and START, whose words are taken; every other stops where it begins. -/
def stopPoint (i : Instr) (s : State) : State :=
  match i with
  | .readSwitches | .sample => readStop s
  | .tick sw =>
    match sampleOp { s with sw := sw } with
    | .next t => dispatchStop t.events t
    | .fault _ | .refused _ => readStop { s with sw := sw }
  | .start d =>
    match generateOp { s with diff := d, nact := BitVec.ofNat 4 ((activeSize s.cfg d).getD 0) } with
    | .next t => t
    | .fault _ | .refused _ => s
  | _ => s

/-- R237 (c): a reset that falls before the step stops, or at that moment, wins; after it the stop stands (log 28). -/
def resetBefore (cut : Cut) (i : Instr) (s t : State) (stopped : Res) : Res :=
  if cut.micro ≤ t.trace.length then resetWithin cut i s t else stopped

/-- R264: `rst_n` falls in the middle of the step of `i` that began in `s` and would have ended as `whole`. A step that
hangs in GENERATE has performed no micro-operation (R272). -/
def cutShort (cut : Cut) (i : Instr) (s : State) (whole : Res) : Res :=
  match whole with
  | .next t => resetWithin cut i s t
  | .fault .generateUnended => .next (resetBlock (dropRand cut.words s))
  | .fault .busContention => resetBefore cut i s (stopPoint i s) (.fault .busContention)
  | .refused r => resetBefore cut i s (stopPoint i s) (.refused r)

end Sys2Proof.Machine
end

