-- ==== Sys2Proof/Machine/Score.lean ====
section
/-! DEFINITION. The score family (44_score.md): RECORD and SESSION_RESET. -/

namespace Sys2Proof.Machine

/-- RECORD(s, c) (R220): the success bit is not used. -/
def execRecord (_success : Bool) (c : Index) (s : State) : Res := .next (addScore c s)

/-- SESSION_RESET (R221). -/
def execSessionReset (s : State) : Res := .next { s with score := 0 }

end Sys2Proof.Machine
end

