-- ==== Sys2Proof/Machine/Signaling.lean ====
section
/-! DEFINITION. The signaling family (40_signaling.md): eleven micro-operations and four macro-operations. -/

namespace Sys2Proof.Machine

/-- U_NOP (R111). -/
def execUNop (s : State) : Res := microNop s

/-- U_BUS_OUT(d) (R112). -/
def execUBusOut (d : Byte) (s : State) : Res := microBusOut d s

/-- U_BUS_REL (R113). -/
def execUBusRel (s : State) : Res := microBusRel s

/-- U_STB_LO (R114). -/
def execUStbLo (s : State) : Res := microStbLo s

/-- U_STB_HI (R115). -/
def execUStbHi (s : State) : Res := microStbHi s

/-- U_OE_LO_ON (R116). -/
def execUOeLoOn (s : State) : Res := microOeLoOn s

/-- U_OE_LO_OFF (R117). -/
def execUOeLoOff (s : State) : Res := microOeLoOff s

/-- U_OE_HI_ON (R118). -/
def execUOeHiOn (s : State) : Res := microOeHiOn s

/-- U_OE_HI_OFF (R119). -/
def execUOeHiOff (s : State) : Res := microOeHiOff s

/-- U_SAMP_LO (R120). -/
def execUSampLo (s : State) : Res := microSampLo s

/-- U_SAMP_HI (R121). -/
def execUSampHi (s : State) : Res := microSampHi s

/-- BUS_WRITE(bank, v) (R124): the bus is still driven afterwards. -/
def execBusWrite (bank : Bank) (v : Byte) (s : State) : Res := busWriteSeq bank v s

/-- BUS_READ(bank) (R125), returning the sampled byte. -/
def execBusRead (bank : Bank) (s : State) : Res :=
  andThen (busReadSeq bank s) fun t => .next { t with ret := .byte (bankByte bank t) }

/-- WRITE_LIGHTS(p) (R126): `LIGHTS` is the caller's to write. -/
def execWriteLights (p : Pattern) (s : State) : Res := writeLightsSeq p s

/-- READ_SWITCHES (R127), returning the pressed set. -/
def execReadSwitches (s : State) : Res :=
  andThen (readSwitchesSeq s) fun t => .next { t with ret := .set (switchSet t) }

end Sys2Proof.Machine
end

