-- ==== Sys2Proof/Machine/Dispatch.lean ====
section
/-! DEFINITION. One arm per operation of the opcode table, each a direct call of its meaning. -/

namespace Sys2Proof.Machine

/-- What an operation does in a state (30_encoding.md R81). -/
def exec (i : Instr) (s : State) : Host.Outcome State Fault Refusal :=
  match i with
  | .uNop => Sys2Proof.Machine.execUNop s
  | .uBusOut d => Sys2Proof.Machine.execUBusOut d s
  | .uBusRel => Sys2Proof.Machine.execUBusRel s
  | .uStbLo => Sys2Proof.Machine.execUStbLo s
  | .uStbHi => Sys2Proof.Machine.execUStbHi s
  | .uOeLoOn => Sys2Proof.Machine.execUOeLoOn s
  | .uOeLoOff => Sys2Proof.Machine.execUOeLoOff s
  | .uOeHiOn => Sys2Proof.Machine.execUOeHiOn s
  | .uOeHiOff => Sys2Proof.Machine.execUOeHiOff s
  | .uSampLo => Sys2Proof.Machine.execUSampLo s
  | .uSampHi => Sys2Proof.Machine.execUSampHi s
  | .busWrite bank v => Sys2Proof.Machine.execBusWrite bank v s
  | .busRead bank => Sys2Proof.Machine.execBusRead bank s
  | .writeLights p => Sys2Proof.Machine.execWriteLights p s
  | .readSwitches => Sys2Proof.Machine.execReadSwitches s
  | .sample => Sys2Proof.Machine.execSample s
  | .debounce k raw => Sys2Proof.Machine.execDebounce k raw s
  | .emit k t => Sys2Proof.Machine.execEmit k t s
  | .generate => Sys2Proof.Machine.execGenerate s
  | .gInit => Sys2Proof.Machine.execGInit s
  | .gSwap k j => Sys2Proof.Machine.execGSwap k j s
  | .gCheck => Sys2Proof.Machine.execGCheck s
  | .noreq => Sys2Proof.Machine.execNoreq s
  | .start d => Sys2Proof.Machine.execStart d s
  | .sessionReset => Sys2Proof.Machine.execSessionReset s
  | .abort => Sys2Proof.Machine.execAbort s
  | .tick sw => Sys2Proof.Machine.execTick sw s
  | .dispatch e => Sys2Proof.Machine.execDispatch e s
  | .auto => Sys2Proof.Machine.execAuto s
  | .evDrop e => Sys2Proof.Machine.execEvDrop e s
  | .pvRelease e => Sys2Proof.Machine.execPvRelease e s
  | .pvIgnore e => Sys2Proof.Machine.execPvIgnore e s
  | .pvAdvance e => Sys2Proof.Machine.execPvAdvance e s
  | .rcRelease e => Sys2Proof.Machine.execRcRelease e s
  | .rcMiss e => Sys2Proof.Machine.execRcMiss e s
  | .rcHit e => Sys2Proof.Machine.execRcHit e s
  | .pvDone => Sys2Proof.Machine.execPvDone s
  | .rcDone => Sys2Proof.Machine.execRcDone s
  | .reportSuccess => Sys2Proof.Machine.execReportSuccess s
  | .reportFailure => Sys2Proof.Machine.execReportFailure s
  | .record b c => Sys2Proof.Machine.execRecord b c s
  | .reset => Sys2Proof.Machine.execReset s

end Sys2Proof.Machine
end

