-- ==== Sys2Proof/Machine/Fetch.lean ====
section
/-! DEFINITION. How a command reaches the block (60_exceptions.md R236; log 1): the oldest command of the inbox is taken
at a step boundary, decoded, and performed to completion (R69). -/

namespace Sys2Proof.Machine

/-- A step begins: the switch levels the environment gives with the command, and an empty trace and event list
(R8, R12; log 19, 25). -/
def beginStep (c : Cmd) (rest : List Cmd) (s : State) : State :=
  { s with inbox := rest, sw := c.sw.getD s.sw, trace := [], events := [] }

/-- Performs an instruction as the environment lined it up: to its end, or cut short by a reset (R264). -/
def perform (cut : Option Cut) (i : Instr) (s : State) : Res :=
  match cut with
  | none => exec i s
  | some c => cutShort c i s (exec i s)

/-- What the spec has a model refuse about a state: a reserved `RSTATE` code (R94 b) or a configuration with an
`ACTIVE_SIZE` outside 2 to 10 (R235 b, I22). DESIGN CHOICE (log 29): a `SCORE_MAX` of 0, which D21 leaves out of its values
and says nothing more of, is not refused. -/
def stateProblem (s : State) : Option Refusal :=
  if 5 ≤ s.rstate.toNat then some (.reservedRState s.rstate) else (illegalSize s.cfg).map .activeSize

/-- A state that a model refuses is refused whatever the command, and even without one (log 17). -/
def refuseState (s : State) (r : Res) : Res :=
  match stateProblem s with
  | some why => .refused why
  | none => r

/-- Performs one command. -/
def runCommand (c : Cmd) (s : State) : Res :=
  match decode c.word with
  | .ok i => perform c.cut i s
  | .error why => .refused (.undecodable why)

/-- The command of a table word: no change of the switches, no reset. -/
def tableCommand (nbits w : Nat) : Cmd := { word := tableWord nbits w, sw := none, cut := none }

/-- The command of an instruction: no change of the switches, no reset. -/
def commandOf (i : Instr) : Cmd := { word := encode i, sw := none, cut := none }

end Sys2Proof.Machine
end

