-- ==== Sys2Proof/Machine/Step.lean ====
section
/-! DEFINITION. One step: the oldest command of the inbox, or nothing while there is none (R47, R244); a state with a reserved
`RSTATE` code, or with an illegal configuration, is refused (R94 b, R235 b). -/

namespace Sys2Proof.Machine

/-- The block performs the next command the environment lined up; between steps it does nothing. -/
def step (s : State) : Host.Outcome State Fault Refusal :=
  refuseState s <|
    match s.inbox with
    | [] => .next s
    | c :: rest => runCommand c (beginStep c rest s)

/-- `s` with the instruction of a table word as the next command. -/
def State.withFetchWord (s : State) (nbits w : Nat) : State :=
  { s with inbox := tableCommand nbits w :: s.inbox }

end Sys2Proof.Machine
end

