-- ==== Sys2Proof/Machine/Stimulus.lean ====
section
/-! DEFINITION. The stimulus notation (30_encoding.md R96, R97; log 21) and the caller's view of a round (43_game_fsm.md
R203). No hardware decodes the notation: it stands for what the environment lines up. -/

namespace Sys2Proof.Machine

/-- The pseudo-operations of R97. -/
inductive Stim where
  | press (b : Index)
  | release (b : Index)
  | tap (b : Index)
  | idle (n : Nat)
deriving DecidableEq, Repr

/-- The switch levels a pseudo-operation leaves, "current sw" (R97). -/
def stimLevels (sw : Pattern) : Stim → Pattern
  | .press b => putBit sw b.toNat true
  | .release b => putBit sw b.toNat false
  | .tap b => putBit (putBit sw b.toNat true) b.toNat false
  | .idle _ => sw

/-- The TICK steps a pseudo-operation expands to, from the current switch levels (R97). -/
def expandStim (sw : Pattern) : Stim → List Instr
  | .press b => List.replicate 2 (.tick (putBit sw b.toNat true))
  | .release b => List.replicate 2 (.tick (putBit sw b.toNat false))
  | .tap b =>
    List.replicate 2 (.tick (putBit sw b.toNat true)) ++
      List.replicate 2 (.tick (putBit (putBit sw b.toNat true) b.toNat false))
  | .idle n => List.replicate n (.tick sw)

/-- A list of pseudo-operations, each from the levels the one before left. -/
def expandStims (sw : Pattern) : List Stim → List Instr
  | [] => []
  | p :: rest => expandStim sw p ++ expandStims (stimLevels sw p) rest

/-- The instructions lined up behind what the inbox already holds. -/
def lineUp (is : List Instr) (s : State) : State := { s with inbox := s.inbox ++ is.map commandOf }

/-- The TICK steps of RUNROUND: they go by until `OUT_VALID` = 1 (R97, R203). -/
def ticksUntilValid : List Pattern → State → Res
  | [], s => .next s
  | sw :: rest, s => if s.outValid then .next s else andThen (exec (.tick sw) s) (ticksUntilValid rest)

/-- `runRound(difficulty)` as the menu collaborator performs it, with the switch levels of the ticks to come (R203). -/
def runRound (d : BitVec 2) (sws : List Pattern) (s : State) : Res :=
  andThen (exec (.start d) s) (ticksUntilValid sws)

end Sys2Proof.Machine
end

