-- ==== Sys2Proof/Safety.lean ====
section
/-! DEFINITION. What counts as a safe machine, in the terms the statements use: permutations of the board, the step
boundary invariant (10_state.md R48), and what every operation keeps. -/

namespace Sys2Proof.Machine

/-- The entries below n are a permutation of 0 to n - 1: they stay below n, each value appears, and none twice
(R25, R167). -/
abbrev PermutesBelow (m : Vector Index 10) (n : Nat) : Prop :=
  (∀ i : Fin 10, i.val < n → (m[i]).toNat < n) ∧
  (∀ v : Fin 10, v.val < n → ∃ i : Fin 10, i.val < n ∧ (m[i]).toNat = v.val) ∧
  (∀ i j : Fin 10, i.val < n → j.val < n → m[i] = m[j] → i = j)

/-- R167 (a) to (d), the invariant of R25: `MAP` is a permutation of the board and of the active subset, not the
identity there, and the identity elsewhere. -/
abbrev LegalMapping (m : Vector Index 10) (n : Nat) : Prop :=
  PermutesBelow m 10 ∧ PermutesBelow m n ∧
  (∃ i : Fin 10, i.val < n ∧ (m[i]).toNat ≠ i.val) ∧
  (∀ i : Fin 10, n ≤ i.val → (m[i]).toNat = i.val)

/-- A round is on: PREVIEW or RECALL. -/
abbrev inRound (s : State) : Prop := s.rstate = stPreview ∨ s.rstate = stRecall

/-- R48: what holds between steps. -/
abbrev Boundary (s : State) : Prop :=
  s.pin.neutral = true ∧
  (s.rstate = stIdle ∨ inRound s) ∧
  (inRound s → 2 ≤ s.nact.toNat ∧ s.nact.toNat ≤ 10) ∧
  (s.rstate = stPreview → s.pcur.toNat < s.nact.toNat) ∧
  (s.rstate = stRecall → s.pcur = s.nact ∧ s.rcur.toNat < s.nact.toNat) ∧
  s.score ≤ s.cfg.scoreMax ∧
  s.outCount.toNat ≤ 10 ∧
  s.lane = 0#4 ∧ s.ustep = 0 ∧
  (inRound s → LegalMapping s.map s.nact.toNat)

/-- R7: every active size of the configuration is in 2 to 10. -/
abbrev legalSizes (c : Config) : Prop := ∀ n ∈ [c.activeEasy, c.activeMedium, c.activeHard], 2 ≤ n ∧ n ≤ 10

/-- A state that a model does not refuse: `RSTATE` holds a code of R87 (R94 b), the configuration is legal (R235 b). -/
abbrev Admitted (s : State) : Prop := s.rstate.toNat ≤ 4 ∧ legalSizes s.cfg

/-- What every one of the 42 operations keeps, at pin level too: at most one driver on the bus (R129, R234), strobes
idle (R35), `MAP` a permutation of the board (R25, R163), the score under its ceiling (R222), and a state that is not
refused. -/
abbrev Sound (s : State) : Prop :=
  s.pin.drivers ≤ 1 ∧ s.pin.stbLo = false ∧ s.pin.stbHi = false ∧
  PermutesBelow s.map 10 ∧ s.score ≤ s.cfg.scoreMax ∧ Admitted s

/-- Neither input latch is enabled. -/
abbrev inputsOff (s : State) : Prop := s.pin.oeLoN = true ∧ s.pin.oeHiN = true

/-- The comparator of R85 has the value `hit` for an event of the board in a state of a round, or in IDLE. -/
abbrev comparator (s : State) (e : EventRec) (hit : Bool) : Prop :=
  (s.rstate = stIdle ∧ hit = false) ∨
  (s.rstate = stPreview ∧ hit = (e.button == s.pcur)) ∨
  (s.rstate = stRecall ∧ ∃ l, s.map[e.button.toNat]? = some l ∧ l.toNat ≤ 9 ∧ hit = (l == s.rcur))

/-- The operations that are steps of the environment: RESET, the four requests, TICK (R8, R236). -/
def environmentStep : Instr → Bool
  | .reset | .noreq | .start _ | .sessionReset | .abort | .tick _ => true
  | _ => false

/-- R36, what a byte taken from the bus is: the block's byte while it drives, the switches of a settled bank (of the
high bank lines 1:0 only). While nobody drives, or the bank has not settled, it is any value. -/
abbrev busShows (s : State) (b : Byte) : Prop :=
  (s.pin.busDir = true → b = s.pin.busOut) ∧
  (s.pin.oeLoN = false → max 2 s.cfg.settleCycles ≤ s.settleLo → b = ~~~(s.sw.extractLsb' 0 8)) ∧
  (s.pin.oeHiN = false → max 2 s.cfg.settleCycles ≤ s.settleHi → b.extractLsb' 0 2 = ~~~(s.sw.extractLsb' 8 2))

/-- A state with one clock cycle's marks (R82, R36, R37): the trace entry, `USTEP`, and the settle counts of the banks
that are enabled. -/
def afterCycle (code : BitVec 4) (data : Byte) (s : State) : State :=
  { s with
    trace := s.trace ++ [code ++ data]
    ustep := s.ustep + 1
    settleLo := if s.pin.oeLoN then s.settleLo else s.settleLo + 1
    settleHi := if s.pin.oeHiN then s.settleHi else s.settleHi + 1 }

/-- The pin trace of WRITE_LIGHTS (R126): low byte, low strobe, high byte, high strobe, release. -/
def lightsTrace (p : Pattern) : List TraceEntry :=
  [0x1#4 ++ ~~~(p.extractLsb' 0 8), 0x300#12, 0x1#4 ++ (0b111111#6 ++ ~~~(p.extractLsb' 8 2)), 0x400#12, 0x200#12]

/-- The pin trace of READ_SWITCHES with n settle cycles (R127). -/
def switchesTrace (n : Nat) : List TraceEntry :=
  [0x200#12, 0x500#12] ++ List.replicate n 0x000#12 ++ [0x900#12, 0x600#12, 0x700#12] ++
    List.replicate n 0x000#12 ++ [0xA00#12, 0x800#12]

/-- The state after `LIGHT(p)` (R198, R126): `LIGHTS`, the two output latches, the last byte driven, and the trace;
`USTEP` is 0 at the end (R37; log 15). -/
def afterLight (p : Pattern) (s : State) : State :=
  { s with
    lights := p
    outLatchLo := ~~~(p.extractLsb' 0 8)
    outLatchHi := 0b111111#6 ++ ~~~(p.extractLsb' 8 2)
    pin := { s.pin with busOut := 0b111111#6 ++ ~~~(p.extractLsb' 8 2), busDir := false, stbLo := false, stbHi := false }
    trace := s.trace ++ lightsTrace p
    ustep := 0 }

/-- R142 for one lane: whether the level is confirmed and new. -/
def laneFires (deb last raw : Pattern) (i : Nat) : Bool :=
  (raw.getLsbD i == last.getLsbD i) && (raw.getLsbD i != deb.getLsbD i)

/-- R142 for all lanes: `DEB` after a poll takes the level of each lane read twice alike and keeps the others. -/
def debounced (deb last raw : Pattern) : Pattern :=
  let same := ~~~(raw ^^^ last)
  (raw &&& same) ||| (deb &&& ~~~same)

/-- The events of a poll (R141 to R144): one for each lane that fires, in ascending index. -/
def pollEvents (deb last raw : Pattern) (ts : Stamp) : List EventRec :=
  ((List.range 10).filter (laneFires deb last raw)).map
    fun i => { ts := ts, tr := raw.getLsbD i, button := BitVec.ofNat 4 i }

/-- The state after SAMPLE (R141): the switches read, the lanes debounced, the poll counted. `top` is what the six
unused lines of the high bank showed, `freeHi` and `freeCtr` what the model keeps of such lines. -/
def afterPoll (top freeHi : BitVec 6) (freeCtr : Nat) (s : State) : State :=
  { s with
    rdLo := ~~~(s.sw.extractLsb' 0 8)
    rdHi := top ++ ~~~(s.sw.extractLsb' 8 2)
    deb := debounced s.deb s.lastRaw s.sw
    lastRaw := s.sw
    tick := s.tick + 1#32
    events := pollEvents s.deb s.lastRaw s.sw s.tick
    pin := { s.pin with busDir := false }
    trace := s.trace ++ switchesTrace s.cfg.settleCycles
    ustep := 0
    lane := 0#4
    settleLo := 0
    settleHi := 0
    freeHi := freeHi
    freeCtr := freeCtr }

/-- The first words of the RAND stream make one attempt of GENERATE over n active positions something else than the
identity (R166): the n - 1 words are lined up, and some draw, the k-th with i = n - 1 - k, does not return i. -/
abbrev goodAttempt (n : Nat) (rand : List Byte) : Prop :=
  n - 1 ≤ rand.length ∧ ∃ k : Fin 9, k.val + 1 < n ∧ (rand.getD k.val 0#8).toNat % (n - k.val) ≠ n - 1 - k.val

/-- The opposite: all n - 1 words of the first attempt are lined up and every draw returns its own index (R166). -/
abbrev identityAttempt (n : Nat) (rand : List Byte) : Prop :=
  n - 1 ≤ rand.length ∧ ∀ k : Fin 9, k.val + 1 < n → (rand.getD k.val 0#8).toNat % (n - k.val) = n - 1 - k.val

/-- Every position maps to itself (R161). -/
def ownPositions : Vector Index 10 := Vector.ofFn fun k => BitVec.ofNat 4 k.val

/-- R164: a map with the entries i and j exchanged. -/
def exchanged (m : Vector Index 10) (i j : Nat) : Vector Index 10 :=
  Vector.ofFn fun k => if k.val = j then m[i]?.getD 0#4 else if k.val = i then m[j]?.getD 0#4 else m[k]

/-- R160, R162: the map that the words of one attempt make of another: the first word w exchanges entry i with entry
`w mod (i + 1)`, the next ones the entries below, down to 1. -/
def drawnMap : Nat → List Byte → Vector Index 10 → Vector Index 10
  | i + 1, w :: ws, m => drawnMap i ws (exchanged m (i + 1) (w.toNat % (i + 2)))
  | _, _, m => m

/-- DISPATCH of one event after another (R183), without the marks of a TICK. -/
def dispatchList : List EventRec → State → Host.Outcome State Fault Refusal
  | [], s => .next s
  | e :: rest, s =>
    match exec (.dispatch e) s with
    | .next t => dispatchList rest t
    | .fault x => .fault x
    | .refused x => .refused x

/-- The events of one poll after another, each with its own switch levels, and the state at the end; none if a poll does
not answer a next state. -/
def pollsOf : List Pattern → State → Option (List EventRec × State)
  | [], s => some ([], s)
  | sw :: rest, s =>
    match exec .sample { s with sw := sw } with
    | .next t => (pollsOf rest t).map fun r => (t.events ++ r.1, r.2)
    | .fault _ => none
    | .refused _ => none

end Sys2Proof.Machine
end

