-- ==== Sys2Proof/Certificates/Slice0/Obligations.lean ====
section
/-! DEFINITION. The statements for the provers. A clause that rests on a choice of the model names the log entry. -/

open Sys2Proof Sys2Proof.Machine

/-! ### Signaling -/

/-- R111: U_NOP changes nothing but lets one cycle pass, which counts toward an enabled bank's settling; trace entry
0x000. In a contended state, which no run reaches, every micro-operation faults (log 12). -/
def Obligations.NopLetsOneCyclePass : Prop :=
  ∀ s : State, s.pin.drivers ≤ 1 → exec .uNop s = .next (afterCycle 0x0#4 0x00#8 s)

/-- R112, R113: U_BUS_OUT(d) drives d, with BusContention exactly if an input latch is enabled at this moment;
U_BUS_REL stops driving, and `BUS_OUT` keeps its value. Both input latches enabled together is the contended state
that no run reaches (log 12). -/
def Obligations.BusDirectionOperations : Prop :=
  ∀ (d : Byte) (s : State),
    (inputsOff s → exec (.uBusOut d) s =
      .next (afterCycle 0x1#4 d { s with pin := { s.pin with busOut := d, busDir := true } })) ∧
    (¬ inputsOff s → exec (.uBusOut d) s = .fault .busContention) ∧
    (¬ (s.pin.oeLoN = false ∧ s.pin.oeHiN = false) →
      exec .uBusRel s = .next (afterCycle 0x2#4 0x00#8 { s with pin := { s.pin with busDir := false } }))

/-- R114, R115, R36: a strobe stores in its output latch what the bus shows; the strobe is idle again afterwards, and
nothing else changes but the marks of the cycle and the model's free-value fields (log 6, 7). -/
def Obligations.StrobesLatchTheBus : Prop :=
  ∀ s : State, s.pin.drivers ≤ 1 →
    (∃ b t, exec .uStbLo s = .next t ∧ busShows s b ∧ t = afterCycle 0x3#4 0x00#8 { s with
      outLatchLo := b, pin := { s.pin with stbLo := false }, freeHi := t.freeHi, freeCtr := t.freeCtr }) ∧
    (∃ b t, exec .uStbHi s = .next t ∧ busShows s b ∧ t = afterCycle 0x4#4 0x00#8 { s with
      outLatchHi := b, pin := { s.pin with stbHi := false }, freeHi := t.freeHi, freeCtr := t.freeCtr })

/-- R120, R121, R36: a sample stores in its register what the bus shows, and changes nothing else but the marks of the
cycle and the model's free-value fields (log 6, 7). -/
def Obligations.SamplesTakeTheBus : Prop :=
  ∀ s : State, s.pin.drivers ≤ 1 →
    (∃ b t, exec .uSampLo s = .next t ∧ busShows s b ∧ t = afterCycle 0x9#4 0x00#8 { s with
      rdLo := b, freeHi := t.freeHi, freeCtr := t.freeCtr }) ∧
    (∃ b t, exec .uSampHi s = .next t ∧ busShows s b ∧ t = afterCycle 0xA#4 0x00#8 { s with
      rdHi := b, freeHi := t.freeHi, freeCtr := t.freeCtr })

/-- R116, R118: an output enable puts its bank on the bus with a settle count of 0; BusContention exactly if the block
drives or the other bank is enabled. -/
def Obligations.OutputEnableConnectsOrContends : Prop :=
  ∀ s : State,
    (s.pin.busDir = false ∧ s.pin.oeHiN = true → exec .uOeLoOn s =
      .next { afterCycle 0x5#4 0x00#8 { s with pin := { s.pin with oeLoN := false } } with settleLo := 0 }) ∧
    (s.pin.busDir = true ∨ s.pin.oeHiN = false → exec .uOeLoOn s = .fault .busContention) ∧
    (s.pin.busDir = false ∧ s.pin.oeLoN = true → exec .uOeHiOn s =
      .next { afterCycle 0x7#4 0x00#8 { s with pin := { s.pin with oeHiN := false } } with settleHi := 0 }) ∧
    (s.pin.busDir = true ∨ s.pin.oeLoN = false → exec .uOeHiOn s = .fault .busContention)

/-- R117, R119: a disable takes its bank off the bus. What remains contended faults (log 12). -/
def Obligations.OutputDisableDisconnects : Prop :=
  ∀ s : State,
    (¬ (s.pin.busDir = true ∧ s.pin.oeHiN = false) → exec .uOeLoOff s =
      .next (afterCycle 0x6#4 0x00#8 { s with pin := { s.pin with oeLoN := true }, settleLo := 0 })) ∧
    (¬ (s.pin.busDir = true ∧ s.pin.oeLoN = false) → exec .uOeHiOff s =
      .next (afterCycle 0x8#4 0x00#8 { s with pin := { s.pin with oeHiN := true }, settleHi := 0 }))

/-- R234, R36: a micro-operation after which two or more drive the bus is BusContention, and so are the sequences and
the operations that come to one: BUS_WRITE, WRITE_LIGHTS and those that light through it with an input latch enabled,
BUS_READ while the block drives or the other bank is enabled, READ_SWITCHES, SAMPLE and TICK entered with the high
bank enabled. That the micro-operations whose own rule names no fault answer it too is the model's reading (log 12);
no run from reset reaches such a state. -/
def Obligations.ContentionFaults : Prop :=
  ∀ (s : State) (v : Byte) (p sw : Pattern) (bank : Bank) (e : EventRec) (l : Index),
    (2 ≤ s.pin.drivers →
      exec .uNop s = .fault .busContention ∧ exec .uStbLo s = .fault .busContention ∧
      exec .uStbHi s = .fault .busContention ∧ exec .uSampLo s = .fault .busContention ∧
      exec .uSampHi s = .fault .busContention) ∧
    (s.pin.oeLoN = false ∧ s.pin.oeHiN = false → exec .uBusRel s = .fault .busContention) ∧
    (s.pin.oeHiN = false → exec (.busRead .lo) s = .fault .busContention ∧
      exec .readSwitches s = .fault .busContention ∧ exec .sample s = .fault .busContention ∧
      exec (.tick sw) s = .fault .busContention) ∧
    (s.pin.oeLoN = false → exec (.busRead .hi) s = .fault .busContention) ∧
    (s.pin.busDir = true ∧ s.pin.oeHiN = false → exec .uOeLoOff s = .fault .busContention) ∧
    (s.pin.busDir = true ∧ s.pin.oeLoN = false → exec .uOeHiOff s = .fault .busContention) ∧
    (¬ inputsOff s → exec (.busWrite bank v) s = .fault .busContention ∧
      exec (.writeLights p) s = .fault .busContention ∧ exec .pvDone s = .fault .busContention ∧
      (s.map[s.pcur.toNat]? = some l → l.toNat ≤ 9 → exec (.pvAdvance e) s = .fault .busContention) ∧
      (s.map[e.button.toNat]? = some l → l.toNat ≤ 9 → exec (.rcHit e) s = .fault .busContention)) ∧
    (s.pin.busDir = true → exec (.busRead bank) s = .fault .busContention)

/-- R124, R130: after BUS_WRITE the named output latch holds v, the other is as before, and the bus is still driven
with v; two cycles. -/
def Obligations.BusWriteLatchesOneByte : Prop :=
  ∀ (v : Byte) (s : State), inputsOff s →
    exec (.busWrite .lo v) s = .next { s with
      outLatchLo := v, pin := { s.pin with busOut := v, busDir := true, stbLo := false }
      trace := s.trace ++ [0x1#4 ++ v, 0x300#12], ustep := s.ustep + 2 } ∧
    exec (.busWrite .hi v) s = .next { s with
      outLatchHi := v, pin := { s.pin with busOut := v, busDir := true, stbHi := false }
      trace := s.trace ++ [0x1#4 ++ v, 0x400#12], ustep := s.ustep + 2 }

/-- R125: BUS_READ from a released bus, built with at least two settle cycles, returns the inverted switches of its
bank (of the high bank bits 1:0; bits 7:2 are any value, log 7) and leaves the bank off the bus. The returned byte
stands in a field of the model's (log 20). -/
def Obligations.BusReadReturnsInvertedSwitches : Prop :=
  ∀ s : State, inputsOff s → s.pin.busDir = false → 2 ≤ s.cfg.settleCycles →
    exec (.busRead .lo) s = .next { s with
      rdLo := ~~~(s.sw.extractLsb' 0 8), ret := .byte (~~~(s.sw.extractLsb' 0 8)), settleLo := 0
      trace := s.trace ++ ([0x500#12] ++ List.replicate s.cfg.settleCycles 0x000#12 ++ [0x900#12, 0x600#12])
      ustep := s.ustep + (3 + s.cfg.settleCycles) } ∧
    ∃ (top : BitVec 6) (t : State), exec (.busRead .hi) s = .next t ∧ t = { s with
      rdHi := top ++ ~~~(s.sw.extractLsb' 8 2), ret := .byte (top ++ ~~~(s.sw.extractLsb' 8 2)), settleHi := 0
      trace := s.trace ++ ([0x700#12] ++ List.replicate s.cfg.settleCycles 0x000#12 ++ [0xA00#12, 0x800#12])
      ustep := s.ustep + (3 + s.cfg.settleCycles), freeHi := t.freeHi, freeCtr := t.freeCtr }

/-- R126, R128: WRITE_LIGHTS(p) writes the two inverted bytes low first, releases the bus, does not write `LIGHTS`,
and afterwards light i is lit exactly when p[i] is 1. `USTEP` is 0 at its end (R37; log 15). -/
def Obligations.WriteLightsShowsPattern : Prop :=
  ∀ (p : Pattern) (s : State), inputsOff s →
    ∃ t, exec (.writeLights p) s = .next t ∧ t = { afterLight p s with lights := s.lights } ∧
      ∀ i, i < 10 → t.lit i = p.getLsbD i

/-- R127, R92: READ_SWITCHES, built with at least two settle cycles, returns exactly the switch levels, whatever the
unused lines show; it changes the two sampled bytes, the bus direction and the marks of its cycles (`USTEP` 0 at its
end, log 15; the returned set in a field of the model's, log 20). -/
def Obligations.ReadSwitchesReturnsSwitches : Prop :=
  ∀ s : State, inputsOff s → 2 ≤ s.cfg.settleCycles →
    ∃ (top : BitVec 6) (t : State), exec .readSwitches s = .next t ∧ t = { s with
      rdLo := ~~~(s.sw.extractLsb' 0 8), rdHi := top ++ ~~~(s.sw.extractLsb' 8 2)
      pin := { s.pin with busDir := false }, trace := s.trace ++ switchesTrace s.cfg.settleCycles
      ustep := 0, settleLo := 0, settleHi := 0, freeHi := t.freeHi, freeCtr := t.freeCtr, ret := .set s.sw }

/-- R123, R129: the two entry points, entered in the neutral state, never have two drivers at once and leave in the
neutral state, however many settle cycles the sequencer is built with. -/
def Obligations.EntryPointsStayNeutral : Prop :=
  ∀ s : State, s.pin.neutral = true →
    (∀ p, ∃ t, exec (.writeLights p) s = .next t ∧ t.pin.neutral = true) ∧
    (∃ t, exec .readSwitches s = .next t ∧ t.pin.neutral = true)

/-! ### Debounce -/

/-- R141, R142, R143: SAMPLE reads the switches, takes the level of every lane read twice alike into `DEB`, reports
the lanes that changed in ascending index with the poll count at the poll's beginning, and counts the poll. That the
event list begins empty and `LANE` ends at 0 is the model's (log 14, 19). -/
def Obligations.SampleDebouncesAndReports : Prop :=
  ∀ s : State, inputsOff s → 2 ≤ s.cfg.settleCycles →
    ∃ (top freeHi : BitVec 6) (freeCtr : Nat), exec .sample s = .next { afterPoll top freeHi freeCtr s with
      ret := .events (pollEvents s.deb s.lastRaw s.sw s.tick) }

/-- R142, R38: DEBOUNCE of a lane takes the level and reports it exactly when it was read at the previous poll and
differs from the level last reported; otherwise only `LANE` advances. That the record's timestamp is `TICK` is the
model's reading (log 13), and so is how `LANE` stands in it (log 14). -/
def Obligations.DebounceConfirmsLevel : Prop :=
  ∀ (i : Index) (raw : Pattern) (s : State), i.toNat ≤ 9 →
    (laneFires s.deb s.lastRaw raw i.toNat = true → ∃ d : Pattern,
      (∀ j, d.getLsbD j = if j = i.toNat then raw.getLsbD j else s.deb.getLsbD j) ∧
      exec (.debounce i raw) s = .next { s with
        deb := d, lane := s.lane + 1#4
        events := s.events ++ [{ ts := s.tick, tr := raw.getLsbD i.toNat, button := i }] }) ∧
    (laneFires s.deb s.lastRaw raw i.toNat = false →
      exec (.debounce i raw) s = .next { s with lane := s.lane + 1#4 })

/-- R144: EMIT appends one record to the step's event list and writes no register. That the timestamp of the poll is
`TICK` is the model's reading (log 13). -/
def Obligations.EmitAppendsOneRecord : Prop :=
  ∀ (i : Index) (b : Bool) (s : State), i.toNat ≤ 9 →
    exec (.emit i b) s = .next { s with events := s.events ++ [{ ts := s.tick, tr := b, button := i }] }

/-- R84: the event record's word is `(ts << 5) | (tr << 4) | button`, and the record is read back from it. -/
def Obligations.EventRecordLayout : Prop :=
  ∀ e : EventRec, e.toWord.toNat = e.ts.toNat * 32 + e.tr.toNat * 16 + e.button.toNat ∧
    EventRec.ofWord e.toWord = e

/-- R146: a switch bit that toggles for exactly one poll and then returns produces no event, and its debounced level
stays. -/
def Obligations.OnePollGlitchIsSilent : Prop :=
  ∀ (s t u : State) (a b : Pattern) (i : Index), i.toNat ≤ 9 → inputsOff s → 2 ≤ s.cfg.settleCycles →
    s.lastRaw.getLsbD i.toNat = s.deb.getLsbD i.toNat →
    a.getLsbD i.toNat ≠ s.deb.getLsbD i.toNat → b.getLsbD i.toNat = s.deb.getLsbD i.toNat →
    exec .sample { s with sw := a } = .next t → exec .sample { t with sw := b } = .next u →
    (∀ e ∈ t.events ++ u.events, e.button ≠ i) ∧ u.deb.getLsbD i.toNat = s.deb.getLsbD i.toNat

/-- R147, R276: a press seen by two consecutive polls is reported at the second, once and as pressed, if the button
was reported released before; and however many polls see it held after that, it presses no second time. The first poll
that sees it reports nothing of the button. -/
def Obligations.TwoPollPressIsReportedOnce : Prop :=
  ∀ (s : State) (a b : Pattern) (held : List Pattern) (i : Index), i.toNat ≤ 9 → inputsOff s → 2 ≤ s.cfg.settleCycles →
    s.deb.getLsbD i.toNat = false → s.lastRaw.getLsbD i.toNat = false →
    a.getLsbD i.toNat = true → b.getLsbD i.toNat = true → (∀ c ∈ held, c.getLsbD i.toNat = true) →
    ∃ (t u v : State) (es : List EventRec),
      exec .sample { s with sw := a } = .next t ∧ exec .sample { t with sw := b } = .next u ∧
      pollsOf held u = some (es, v) ∧
      (∀ e ∈ t.events, e.button ≠ i) ∧ u.events.filter (fun e => e.button == i) = [⟨t.tick, true, i⟩] ∧
      (∀ e ∈ es, e.button ≠ i) ∧ u.deb.getLsbD i.toNat = true ∧ v.deb.getLsbD i.toNat = true

/-! ### Generator -/

/-- R164: G_SWAP exchanges two entries and changes nothing else. That it does so for any two entries of the board, j
above i too, which R164 leaves out of its operands, is the model's choice (log 22). -/
def Obligations.SwapExchangesEntries : Prop :=
  ∀ (i j : Index) (s : State) (hi : i.toNat < 10) (hj : j.toNat < 10), ∃ m : Vector Index 10,
    exec (.gSwap i j) s = .next { s with map := m } ∧
    ∀ k : Fin 10, m[k] = if k.val = j.toNat then s.map[i.toNat] else if k.val = i.toNat then s.map[j.toNat] else s.map[k]

/-- R161, R165: after G_INIT every entry maps to itself, and nothing else changes; G_CHECK returns 1 exactly when
every active entry maps to itself, and changes no register (the returned value stands in a field of the model's, log
20). With an `NACT` above 10 it would index `MAP` beyond 9 and is refused (R62). -/
def Obligations.MappingInitAndCheck : Prop :=
  ∀ s : State,
    (∃ m : Vector Index 10, exec .gInit s = .next { s with map := m } ∧ ∀ i : Fin 10, (m[i]).toNat = i.val) ∧
    (s.nact.toNat ≤ 10 → ∃ b : Bool, exec .gCheck s = .next { s with ret := .bit b } ∧
      (b = true ↔ ∀ i : Fin 10, i.val < s.nact.toNat → (s.map[i]).toNat = i.val)) ∧
    (10 < s.nact.toNat → exec .gCheck s = .refused .mapIndex)

/-- R167, R163: whenever GENERATE ends, for every stream of words, `MAP` is a permutation of the board, a permutation
of the active entries that is not the identity, and the identity above them; nothing but `MAP` and the RAND stream
changed. -/
def Obligations.GenerateLeavesLegalMapping : Prop :=
  ∀ s t : State, 2 ≤ s.nact.toNat → s.nact.toNat ≤ 10 → exec .generate s = .next t →
    LegalMapping t.map s.nact.toNat ∧ t = { s with map := t.map, rand := t.rand, randPos := t.randPos }

/-- R160, R162, R163, R166: when the words lined up make the first attempt something else than the identity, GENERATE
ends with the map that attempt's exchanges leave of the identity, entry i with entry `w mod (i + 1)` from `NACT` - 1
down to 1, and takes exactly `NACT` - 1 words (its bound on attempts is the model's, log 4, and is not met here). -/
def Obligations.GenerateEndsOnGoodWords : Prop :=
  ∀ s : State, 2 ≤ s.nact.toNat → s.nact.toNat ≤ 10 → goodAttempt s.nact.toNat s.rand →
    LegalMapping (drawnMap (s.nact.toNat - 1) s.rand ownPositions) s.nact.toNat ∧ exec .generate s = .next { s with
      map := drawnMap (s.nact.toNat - 1) s.rand ownPositions, rand := s.rand.drop (s.nact.toNat - 1)
      randPos := s.randPos + (s.nact.toNat - 1) }

/-- R166, R233: an attempt whose every draw returns its own index is rejected, and GENERATE goes on as if begun after
its words. -/
def Obligations.GenerateRejectsIdentity : Prop :=
  ∀ s t : State, 2 ≤ s.nact.toNat → s.nact.toNat ≤ 10 → identityAttempt s.nact.toNat s.rand →
    exec .generate { s with
      rand := s.rand.drop (s.nact.toNat - 1), randPos := s.randPos + (s.nact.toNat - 1) } = .next t →
    exec .generate s = .next t

/-- R166: with `NACT` = 1 (or 0) every attempt is the identity for every stream; the model answers the hang with its
fault, at its own bound (log 4). -/
def Obligations.GenerateOfOnePositionHangs : Prop :=
  ∀ s : State, s.nact.toNat ≤ 1 → exec .generate s = .fault .generateUnended

/-! ### Controller: requests -/

/-- R181: an accepted START whose first attempt at a mapping succeeds: difficulty, active size, the mapping that the
words of that attempt give (R160, R162), which is a legal one, cursors 0, outcome cleared, lights out, PREVIEW; `DEB`,
`LAST_RAW`, `TICK`, `SCORE` and all else untouched (`USTEP` is 0 at the end, log 15). -/
def Obligations.StartBeginsRound : Prop :=
  ∀ (d : BitVec 2) (n : Nat) (s : State), s.rstate = stIdle → activeSize s.cfg d = some n → 2 ≤ n → n ≤ 10 →
    inputsOff s → goodAttempt n s.rand →
    LegalMapping (drawnMap (n - 1) s.rand ownPositions) n ∧ exec (.start d) s = .next { afterLight 0x000#10 s with
      diff := d, nact := BitVec.ofNat 4 n, map := drawnMap (n - 1) s.rand ownPositions, pcur := 0#4, rcur := 0#4
      outValid := false, outSuccess := false, outCount := 0#4, rstate := stPreview
      rand := s.rand.drop (n - 1), randPos := s.randPos + (n - 1) }

/-- R182: outside IDLE, or with the reserved difficulty, START changes nothing. (`RSTATE` holds a code of R87:
StepKeepsSound.) -/
def Obligations.StartRefusedChangesNothing : Prop :=
  ∀ (d : BitVec 2) (s : State), s.rstate.toNat ≤ 4 → s.rstate ≠ stIdle ∨ d = 3#2 → exec (.start d) s = .next s

/-- R206, R197, R221: NOREQ changes nothing; ABORT goes to IDLE and clears the outcome and nothing else; SESSION_RESET
clears the score and nothing else. -/
def Obligations.RequestsOutsideRounds : Prop :=
  ∀ s : State, exec .noreq s = .next s ∧
    exec .abort s = .next { s with rstate := stIdle, outValid := false, outSuccess := false, outCount := 0#4 } ∧
    exec .sessionReset s = .next { s with score := 0 }

/-- R205, R83: a request word performs exactly one of the four, by priority from bit 4 down. The selector of the
command word around it is the model's (log 2). -/
def Obligations.RequestPriority : Prop :=
  ∀ w : BitVec 5, decode (packCommand 2#3 w 0#40) = .ok
    (if w.getLsbD 4 then .abort else if w.getLsbD 3 then .sessionReset
     else if w.getLsbD 2 then .start (w.extractLsb' 0 2) else .noreq)

/-! ### Controller: events and automatic operations -/

/-- R185, R187, R188, R192, R191, R193: EV_DROP, PV_IGNORE, PV_RELEASE and RC_RELEASE change nothing; RC_MISS moves to
FAILURE and RC_DONE to SUCCESS, and nothing else changes. That they do so whatever key the state would form is the
model's choice (log 10). -/
def Obligations.OperationsWithoutLights : Prop :=
  ∀ (e : EventRec) (s : State), exec (.evDrop e) s = .next s ∧ exec (.pvIgnore e) s = .next s ∧
    exec (.pvRelease e) s = .next s ∧ exec (.rcRelease e) s = .next s ∧
    exec (.rcMiss e) s = .next { s with rstate := stFailure } ∧ exec .rcDone s = .next { s with rstate := stSuccess }

/-- R186: PV_ADVANCE lights exactly `MAP[PCUR]` and advances the preview cursor. That it is performed whatever the
key and the event is the model's choice (log 10), and `USTEP` is 0 at the end (log 15). -/
def Obligations.PreviewAdvanceLightsMapping : Prop :=
  ∀ (e : EventRec) (s : State) (l : Index), inputsOff s → s.map[s.pcur.toNat]? = some l → l.toNat ≤ 9 →
    exec (.pvAdvance e) s = .next { afterLight (1#10 <<< l.toNat) s with pcur := s.pcur + 1#4 }

/-- R190: RC_HIT adds the button's light to those lit and advances the recall cursor. That it is performed in every
`RSTATE`, for either transition and for a button whose entry is not `RCUR` is the model's choice (log 10), and so is that a
cursor of 15 wraps (log 30); `USTEP` is 0 at the end (log 15). -/
def Obligations.RecallHitAddsLight : Prop :=
  ∀ (e : EventRec) (s : State) (l : Index), inputsOff s → s.map[e.button.toNat]? = some l → l.toNat ≤ 9 →
    exec (.rcHit e) s = .next { afterLight (s.lights ||| 1#10 <<< l.toNat) s with rcur := s.rcur + 1#4 }

/-- R189: PV_DONE goes to RECALL, puts the preview light out and clears the recall cursor. That it is performed in every
`RSTATE` and at every `PCUR` is the model's choice (log 10); `USTEP` is 0 at the end (log 15). -/
def Obligations.PreviewDoneExtinguishes : Prop :=
  ∀ s : State, inputsOff s →
    exec .pvDone s = .next { afterLight 0x000#10 s with rstate := stRecall, rcur := 0#4 }

/-- R194, R195, R238: the end of a round saves the outcome, adds the count to the saturating score, and goes to IDLE;
the lights and all else stay. That they report whatever key the state would form is the model's choice (log 10). -/
def Obligations.ReportsEndTheRound : Prop :=
  ∀ s : State,
    exec .reportSuccess s = .next { s with
      outValid := true, outSuccess := true, outCount := s.nact, rstate := stIdle
      score := min (s.score + s.nact.toNat) s.cfg.scoreMax } ∧
    exec .reportFailure s = .next { s with
      outValid := true, outSuccess := false, outCount := s.rcur, rstate := stIdle
      score := min (s.score + s.rcur.toNat) s.cfg.scoreMax }

/-- R220: RECORD adds the count, whatever the success bit, up to `SCORE_MAX`. That counts of 11 to 15, which the
rule leaves out of its operands, are added too is the model's choice (log 22). -/
def Obligations.RecordSaturates : Prop :=
  ∀ (b : Bool) (c : Index) (s : State),
    exec (.record b c) s = .next { s with score := min (s.score + c.toNat) s.cfg.scoreMax }

/-- R196, R86: AUTO ends, in IDLE, PREVIEW or RECALL, with no automatic operation left to perform; where none matches
at once it changes nothing, and where one matches it performs that one and goes on from there. Its bound of four is
the model's (log 23). -/
def Obligations.AutoRunsToQuiet : Prop :=
  ∀ s : State, s.rstate.toNat ≤ 4 → inputsOff s →
    (∃ t, exec .auto s = .next t ∧ selectAuto (autoKey t) = none ∧ t.rstate.toNat ≤ 2) ∧
    (selectAuto (autoKey s) = none → exec .auto s = .next s) ∧
    (∀ op t, selectAuto (autoKey s) = some op → exec op.instr s = .next t → exec .auto s = exec .auto t)

/-- R184, R85: DISPATCH performs the operation that the key of RSTATE, transition and comparator selects, and then
AUTO. -/
def Obligations.DispatchPerformsSelected : Prop :=
  ∀ (e : EventRec) (s : State) (hit : Bool) (op : EvOp), e.button.toNat ≤ 9 → comparator s e hit →
    selectEvent (s.rstate ++ (BitVec.ofBool e.tr ++ BitVec.ofBool hit)) = some op →
    (∀ t, exec (op.instr e) s = .next t → exec (.dispatch e) s = exec .auto t) ∧
    (∀ x, exec (op.instr e) s = .fault x → exec (.dispatch e) s = .fault x) ∧
    (∀ x, exec (op.instr e) s = .refused x → exec (.dispatch e) s = .refused x)

/-- R185, R187, R188, R192, R202: the events that change nothing, dispatched: any event in IDLE; in PREVIEW a release
or a press of another button than `PCUR`; in RECALL a release. -/
def Obligations.DispatchOfIgnoredEvent : Prop :=
  ∀ (e : EventRec) (s : State), e.button.toNat ≤ 9 →
    (s.rstate = stIdle → exec (.dispatch e) s = .next s) ∧
    (s.rstate = stPreview → s.pcur ≠ s.nact → (e.tr = false ∨ e.button ≠ s.pcur) →
      exec (.dispatch e) s = .next s) ∧
    (s.rstate = stRecall → s.rcur ≠ s.nact → e.tr = false → (∀ l, s.map[e.button.toNat]? = some l → l.toNat ≤ 9) →
      exec (.dispatch e) s = .next s)

/-- R186, R189, R275: a press of the expected button in PREVIEW lights its light; the press of the last one is
followed in the same DISPATCH by PV_DONE, so at the end the light is out again, though the trace shows it lit. -/
def Obligations.DispatchOfExpectedPress : Prop :=
  ∀ (e : EventRec) (s : State) (l : Index), inputsOff s → s.rstate = stPreview → s.pcur.toNat < s.nact.toNat →
    s.nact.toNat ≤ 10 → 2 ≤ s.nact.toNat → e.tr = true → e.button = s.pcur → s.map[s.pcur.toNat]? = some l →
    l.toNat ≤ 9 →
    (s.pcur.toNat + 1 < s.nact.toNat →
      exec (.dispatch e) s = .next { afterLight (1#10 <<< l.toNat) s with pcur := s.pcur + 1#4 }) ∧
    (s.pcur.toNat + 1 = s.nact.toNat →
      exec (.dispatch e) s = .next { afterLight 0x000#10 (afterLight (1#10 <<< l.toNat) s) with
        pcur := s.nact, rstate := stRecall, rcur := 0#4 })

/-- R190, R191, R193 to R195, R238: a press in RECALL: the expected light is added; with the last one the round ends
with Success and count N; another light ends it with Failure and the count so far, the lights left as they are. -/
def Obligations.DispatchOfRecallPress : Prop :=
  ∀ (e : EventRec) (s : State) (l : Index), inputsOff s → s.rstate = stRecall → s.rcur.toNat < s.nact.toNat →
    s.nact.toNat ≤ 10 → e.tr = true → s.map[e.button.toNat]? = some l → l.toNat ≤ 9 →
    (l = s.rcur → s.rcur.toNat + 1 < s.nact.toNat →
      exec (.dispatch e) s = .next { afterLight (s.lights ||| 1#10 <<< l.toNat) s with rcur := s.rcur + 1#4 }) ∧
    (l = s.rcur → s.rcur.toNat + 1 = s.nact.toNat →
      exec (.dispatch e) s = .next { afterLight (s.lights ||| 1#10 <<< l.toNat) s with
        rcur := s.nact, outValid := true, outSuccess := true, outCount := s.nact, rstate := stIdle
        score := min (s.score + s.nact.toNat) s.cfg.scoreMax }) ∧
    (l ≠ s.rcur →
      exec (.dispatch e) s = .next { s with
        outValid := true, outSuccess := false, outCount := s.rcur, rstate := stIdle
        score := min (s.score + s.rcur.toNat) s.cfg.scoreMax })

/-- R199: the recall law. From a RECALL at cursor 0, presses whose buttons map to 0, 1, 2, … in order end the round at
the N-th with Success and count N; with the first press that maps elsewhere, at position k, it ends with Failure and
count k. -/
def Obligations.RecallLaw : Prop :=
  ∀ (s : State) (hits : List EventRec) (last : EventRec), Boundary s → s.rstate = stRecall → s.rcur = 0#4 →
    hits.length < s.nact.toNat →
    (∀ e ∈ hits ++ [last], e.tr = true ∧ e.button.toNat ≤ 9) →
    (∀ k (hk : k < hits.length), s.map[(hits[k]).button.toNat]? = some (BitVec.ofNat 4 k)) →
    (s.map[last.button.toNat]? = some (BitVec.ofNat 4 hits.length) → hits.length + 1 = s.nact.toNat →
      ∃ t, dispatchList (hits ++ [last]) s = .next t ∧ t.rstate = stIdle ∧ t.outValid = true ∧
        t.outSuccess = true ∧ t.outCount = s.nact ∧ t.score = min (s.score + s.nact.toNat) s.cfg.scoreMax) ∧
    (s.map[last.button.toNat]? ≠ some (BitVec.ofNat 4 hits.length) →
      ∃ t, dispatchList (hits ++ [last]) s = .next t ∧ t.rstate = stIdle ∧ t.outValid = true ∧
        t.outSuccess = false ∧ t.outCount = BitVec.ofNat 4 hits.length ∧
        t.score = min (s.score + hits.length) s.cfg.scoreMax)

/-! ### TICK -/

/-- R183: TICK is SAMPLE with the given switch levels and then DISPATCH of every event of the batch in order, each
against the state the one before left. (`LANE` is 0 at the end, R37; TICK itself returns nothing, log 20.) -/
def Obligations.TickSamplesThenDispatches : Prop :=
  ∀ (sw : Pattern) (s t u : State), exec .sample { s with sw := sw } = .next t → dispatchList t.events t = .next u →
    exec (.tick sw) s = .next { u with lane := 0#4, ret := s.ret }

/-- R183, R48, R202, R274: at a step boundary every TICK ends, whatever the switches and the settle count, and ends at
a step boundary; the poll is counted. -/
def Obligations.TickCompletesAtBoundary : Prop :=
  ∀ (sw : Pattern) (s : State), Boundary s →
    ∃ t, exec (.tick sw) s = .next t ∧ Boundary t ∧ t.tick = s.tick + 1#32 ∧ t.sw = sw

/-- R202: no timeout. A TICK whose poll confirms no change writes the sampler's registers only: no controller
register, no light, no score, however long the round has lasted. -/
def Obligations.QuietTickLeavesController : Prop :=
  ∀ (sw : Pattern) (s : State), inputsOff s → 2 ≤ s.cfg.settleCycles →
    (∀ i, i < 10 → laneFires s.deb s.lastRaw sw i = false) →
    ∃ (top freeHi : BitVec 6) (freeCtr : Nat), exec (.tick sw) s = .next { afterPoll top freeHi freeCtr { s with sw := sw } with
      events := [] }

/-- R200, R199: a TICK that ends a round leaves a valid outcome whose count is at most N, and equals N exactly for
Success. -/
def Obligations.OutcomeCountWithinActive : Prop :=
  ∀ (sw : Pattern) (s t : State), Boundary s → inRound s → exec (.tick sw) s = .next t → t.rstate = stIdle →
    t.outValid = true ∧ t.nact = s.nact ∧ t.outCount.toNat ≤ s.nact.toNat ∧
      (t.outSuccess = true ↔ t.outCount = s.nact)

/-! ### Reset -/

/-- R261, R47, R262, R263: RESET gives every block register, pin and sequencing register its value of R47; the output
latches, the switches, the RAND stream and the parameters are not touched (nor, by log 19 and 20, the records of the
step, nor the model's own fields). -/
def Obligations.ResetRestoresTable : Prop :=
  ∀ s : State, exec .reset s = .next { State.reset with
    cfg := s.cfg, outLatchLo := s.outLatchLo, outLatchHi := s.outLatchHi, sw := s.sw, rand := s.rand
    randPos := s.randPos, events := s.events, trace := s.trace, ret := s.ret, freeHi := s.freeHi
    freeCtr := s.freeCtr, inbox := s.inbox }

/-- R47, R35: the reset values as the table prints them. -/
def Obligations.ResetValues : Prop :=
  State.reset.deb = 0x000#10 ∧ State.reset.lastRaw = 0x000#10 ∧ State.reset.tick = 0#32 ∧
  State.reset.rdLo = 0x00#8 ∧ State.reset.rdHi = 0x00#8 ∧ (∀ i : Fin 10, (State.reset.map[i]).toNat = i.val) ∧
  State.reset.diff = 0#2 ∧ State.reset.nact = 0#4 ∧ State.reset.rstate = 0#3 ∧ State.reset.pcur = 0#4 ∧
  State.reset.rcur = 0#4 ∧ State.reset.lights = 0x000#10 ∧ State.reset.outcomeWord = 0b000000#6 ∧
  State.reset.score = 0 ∧ State.reset.pin.toWord = 0x3000#14 ∧ State.reset.lane = 0#4 ∧ State.reset.ustep = 0 ∧
  State.reset.busy = false

/-- R264, R263, R270, R237 (c): `rst_n` falls after n micro-operations of a WRITE_LIGHTS: an output latch that was strobed
keeps the new byte, the other the old one, every register is reset, and the parameters, the switches and the RAND stream
are as before. Where its first micro-operation contends, the reset wins if it falls before that, and the fault stands
otherwise (log 28). (How a reset in the middle of a step is lined up is the model's, log 18, and so are the records of the
step and the model's own fields, log 19, 20.) -/
def Obligations.ResetInTheMiddleOfWriteLights : Prop :=
  ∀ (p : Pattern) (s : State) (rest : List Cmd) (cut : Cut), Admitted s →
    s.inbox = { word := encode (.writeLights p), sw := none, cut := some cut } :: rest →
    (inputsOff s → step s = .next { State.reset with
      outLatchLo := if 2 ≤ cut.micro then ~~~(p.extractLsb' 0 8) else s.outLatchLo
      outLatchHi := if 4 ≤ cut.micro then 0b111111#6 ++ ~~~(p.extractLsb' 8 2) else s.outLatchHi
      cfg := s.cfg, sw := s.sw, rand := s.rand, randPos := s.randPos, events := [], trace := (lightsTrace p).take cut.micro
      ret := s.ret, freeHi := s.freeHi, freeCtr := s.freeCtr, inbox := rest }) ∧
    (¬ inputsOff s → cut.micro = 0 → step s = .next { State.reset with
      outLatchLo := s.outLatchLo, outLatchHi := s.outLatchHi, cfg := s.cfg, sw := s.sw, rand := s.rand
      randPos := s.randPos, events := [], trace := [], ret := s.ret, freeHi := s.freeHi, freeCtr := s.freeCtr
      inbox := rest }) ∧
    (¬ inputsOff s → cut.micro ≠ 0 → step s = .fault .busContention)

/-! ### Stops the spec asks for -/

/-- R94 (b), R86, R85, R7, R235 (b): a state that holds a reserved `RSTATE` code is refused: by every step, whatever
is lined up, and by AUTO, DISPATCH and START, which read it; DISPATCH refuses an event that meets SUCCESS or FAILURE;
a configuration with an active size outside 2 to 10 is refused by every step, whatever is lined up, and by a START that
would use the size. Which operation raises the refusal, and that the code of `RSTATE` is looked at first, is the model's
(log 17). -/
def Obligations.StatesOutsideTheRulesRefused : Prop :=
  ∀ (e : EventRec) (d : BitVec 2) (n : Nat) (s : State), e.button.toNat ≤ 9 →
    (5 ≤ s.rstate.toNat →
      step s = .refused (.reservedRState s.rstate) ∧ exec .auto s = .refused (.reservedRState s.rstate) ∧
      exec (.dispatch e) s = .refused (.reservedRState s.rstate) ∧
      exec (.start d) s = .refused (.reservedRState s.rstate)) ∧
    (s.rstate = stSuccess ∨ s.rstate = stFailure → exec (.dispatch e) s = .refused .eventInTerminalState) ∧
    (s.rstate = stIdle → activeSize s.cfg d = some n → (n < 2 ∨ 10 < n) →
      exec (.start d) s = .refused (.activeSize n)) ∧
    (s.rstate.toNat ≤ 4 → ¬ legalSizes s.cfg →
      ∃ m ∈ [s.cfg.activeEasy, s.cfg.activeMedium, s.cfg.activeHard],
        (m < 2 ∨ 10 < m) ∧ step s = .refused (.activeSize m))

/-- R62, R94 (e): an index of 10 to 15, of a button, a lane or an entry of `MAP`, is refused. Which operation raises
the refusal is the model's (log 17). -/
def Obligations.IndicesBeyondBoardRefused : Prop :=
  ∀ (e : EventRec) (i j : Index) (b : Bool) (raw : Pattern) (s : State), 10 ≤ i.toNat →
    exec (.debounce i raw) s = .refused .buttonIndex ∧ exec (.emit i b) s = .refused .buttonIndex ∧
    exec (.gSwap i j) s = .refused .mapIndex ∧ exec (.gSwap j i) s = .refused .mapIndex ∧
    (e.button = i → exec (.dispatch e) s = .refused .buttonIndex ∧ exec (.rcHit e) s = .refused .mapIndex) ∧
    (s.pcur = i → exec (.pvAdvance e) s = .refused .mapIndex) ∧
    (s.map[s.pcur.toNat]? = some i → exec (.pvAdvance e) s = .refused .mapEntry) ∧
    (s.map[e.button.toNat]? = some i → exec (.rcHit e) s = .refused .mapEntry ∧
      (s.rstate = stRecall → exec (.dispatch e) s = .refused .mapEntry))

/-! ### Rules over all operations -/

/-- R38, R204: `RSTATE` is moved by START, ABORT, RESET, the automatic operations, RC_MISS, and by TICK, DISPATCH and
AUTO, which perform them; by nothing else. -/
def Obligations.OnlyTheseMoveRState : Prop :=
  ∀ (i : Instr) (s t : State), exec i s = .next t → t.rstate ≠ s.rstate →
    (∃ d, i = .start d) ∨ i = .abort ∨ i = .reset ∨ i = .pvDone ∨ i = .rcDone ∨ i = .reportSuccess ∨
    i = .reportFailure ∨ (∃ e, i = .rcMiss e) ∨ (∃ sw, i = .tick sw) ∨ (∃ e, i = .dispatch e) ∨ i = .auto

/-- R222: no operation but SESSION_RESET and RESET makes the score smaller, and none lets it pass `SCORE_MAX`. -/
def Obligations.ScoreNeverFalls : Prop :=
  ∀ (i : Instr) (s t : State), s.score ≤ s.cfg.scoreMax → exec i s = .next t →
    t.score ≤ t.cfg.scoreMax ∧ (i ≠ .sessionReset → i ≠ .reset → s.score ≤ t.score)

/-- R40, R263, R128: only the strobes change an output latch: U_STB_LO and U_STB_HI themselves and the operations that
write lights through them; RESET does not. -/
def Obligations.OnlyStrobesChangeLatches : Prop :=
  ∀ (i : Instr) (s t : State), exec i s = .next t → t.outLatchLo ≠ s.outLatchLo ∨ t.outLatchHi ≠ s.outLatchHi →
    i = .uStbLo ∨ i = .uStbHi ∨ (∃ b v, i = .busWrite b v) ∨ (∃ p, i = .writeLights p) ∨ (∃ d, i = .start d) ∨
    (∃ sw, i = .tick sw) ∨ (∃ e, i = .dispatch e) ∨ i = .auto ∨ (∃ e, i = .pvAdvance e) ∨ (∃ e, i = .rcHit e) ∨
    i = .pvDone

/-- R48 over the machine's steps: if the next command is a step of the environment (RESET, a request, a TICK), or none
is lined up, or a reset falls in the middle of such a step, a step from a step boundary that answers a next state
answers a step boundary. -/
def Obligations.StepKeepsBoundary : Prop :=
  ∀ s t : State, Boundary s →
    (∀ c rest, s.inbox = c :: rest → ∀ i, decode c.word = .ok i → environmentStep i = true) →
    step s = .next t → Boundary t

/-- R48, R47: the state after reset is a step boundary, and sound. -/
def Obligations.ResetIsBoundaryAndSound : Prop := Boundary State.reset ∧ Sound State.reset

/-- R129, R234, R163, R222, R46: every step, of every operation, keeps at most one driver on the bus, idle strobes, a
permutation in `MAP`, a score under its ceiling, a code of R87 in `RSTATE`, and the parameters, which are legal. -/
def Obligations.StepKeepsSound : Prop :=
  ∀ s t : State, Sound s → step s = .next t → Sound t ∧ t.cfg = s.cfg

/-! ### Commands and encodings -/

/-- A step runs the decoded instruction of the oldest command, from the state with that command taken, the switch
levels it brings, and an empty trace and event list (log 1, 19, 25); a word that names no operation is refused; with
no command lined up nothing changes (R244). `RSTATE` holds a code of R87 and the active sizes are legal, as
StepKeepsSound says every step keeps them; in another state the step is refused (StatesOutsideTheRulesRefused). -/
def Obligations.StepRunsDecodedCommand : Prop :=
  ∀ (s : State) (c : Cmd) (rest : List Cmd), Admitted s →
    (s.inbox = c :: rest → c.cut = none → ∀ i, decode c.word = .ok i →
      step s = exec i { s with inbox := rest, sw := c.sw.getD s.sw, trace := [], events := [] }) ∧
    (s.inbox = c :: rest → ∀ why, decode c.word = .error why → step s = .refused (.undecodable why)) ∧
    (s.inbox = [] → step s = .next s)

/-- R81, R99: decoding an encoded instruction gives it back, for every operation and every operand whose indices are of
the board, the well-formed ones among them; an instruction with an index of 10 to 15 is rejected by name (R62, R94 e). The
word around the codes is the model's (log 2), and so is that the other operands outside their domain are read (log 10,
22). -/
def Obligations.DecodeEncodeRoundTrip : Prop :=
  ∀ i : Instr, (i.indicesOnBoard = true → decode (encode i) = .ok i) ∧
    (i.wellFormed = true → decode (encode i) = .ok i) ∧
    (i.indicesOnBoard = false → ∃ why, i.problem = some why ∧ decode (encode i) = .error (.illFormed why))

/-- R94 (a), R85, R86: reserved micro-operation codes, keys of reserved states, keys that cannot occur, and keys that
select no automatic operation are rejected by name, whatever the operands (command word: log 2). -/
def Obligations.ReservedCodesRejected : Prop :=
  ∀ opnd : BitVec 40,
    (∀ c : BitVec 4, 11 ≤ c.toNat → decode (packCommand 1#3 (c.setWidth 5) opnd) = .error .reservedMicroCode) ∧
    (∀ k : BitVec 5, 20 ≤ k.toNat → decode (packCommand 3#3 k opnd) = .error .reservedStateKey) ∧
    (∀ k : BitVec 5, 12 ≤ k.toNat → k.toNat < 20 → decode (packCommand 3#3 k opnd) = .error .impossibleEventKey) ∧
    (∀ a : BitVec 4, 10 ≤ a.toNat → decode (packCommand 4#3 (a.setWidth 5) opnd) = .error .reservedStateKey) ∧
    (∀ a : BitVec 4, a.toNat ≤ 2 ∨ a.toNat = 4 →
      decode (packCommand 4#3 (a.setWidth 5) opnd) = .error .noAutoOperation)

/-- R81, R96: words written out bit by bit from the spec decode to what they stand for: step words of its programs,
and one command word of each format (code in bits 4:0; selector and operands as in log 2). -/
def Obligations.SpecWordsDecode : Prop :=
  decodeStepWord 0b0000000000000000#16 = some .reset ∧
  decodeStepWord 0b0100000000000100#16 = some (.start 0b00#2) ∧
  decodeStepWord 0b0100000000001000#16 = some .sessionReset ∧
  decodeStepWord 0b0100000000010100#16 = some .abort ∧
  decodeStepWord 0b0100000000000000#16 = some .noreq ∧
  decodeStepWord 0b1000000010000100#16 = some (.tick 0b0010000100#10) ∧
  decodeStepWord 0b1100000000000000#16 = none ∧
  decode (0b0000000000000000000000000000000011111011#40 ++ 0b001_00001#8) = .ok (.uBusOut 0b11111011#8) ∧
  decode (0b0000000000000000000000000000000000000000#40 ++ 0b010_00110#8) = .ok (.start 0b10#2) ∧
  decode (0b0000000000000000000000000000000011110010#40 ++ 0b011_01011#8) = .ok (.rcHit ⟨7#32, true, 2#4⟩) ∧
  decode (0b0000000000000000000000000000000000000000#40 ++ 0b100_00101#8) = .ok .rcDone ∧
  decode (0b0000000000000000000000000000000000100001#40 ++ 0b000_01000#8) = .ok (.gSwap 2#4 1#4)

/-- R96: the step word of every environment step decodes back to it, and nothing else has a step word: the kind, the
four zero bits and the argument of the word say which step it is, whatever the operands. -/
def Obligations.StepWordsReadBack : Prop :=
  ∀ i : Instr, (environmentStep i = true → ∃ w, encodeStepWord i = some w ∧ decodeStepWord w = some i) ∧
    (environmentStep i = false → encodeStepWord i = none) ∧
    ∀ w, decodeStepWord w = some i → environmentStep i = true ∧ w.extractLsb' 10 4 = 0#4
end

