-- ==== Sys2Proof/Laws/State.lean ====
section
/-! SUPPORT. One lemma per field per named update of State, true by rfl, so that no proof unfolds a record update. -/

namespace Sys2Proof.Machine

@[simp] theorem restartUstep_cfg (s : State) : (restartUstep s).cfg = s.cfg := rfl
@[simp] theorem restartUstep_deb (s : State) : (restartUstep s).deb = s.deb := rfl
@[simp] theorem restartUstep_lastRaw (s : State) : (restartUstep s).lastRaw = s.lastRaw := rfl
@[simp] theorem restartUstep_tick (s : State) : (restartUstep s).tick = s.tick := rfl
@[simp] theorem restartUstep_rdLo (s : State) : (restartUstep s).rdLo = s.rdLo := rfl
@[simp] theorem restartUstep_rdHi (s : State) : (restartUstep s).rdHi = s.rdHi := rfl
@[simp] theorem restartUstep_map (s : State) : (restartUstep s).map = s.map := rfl
@[simp] theorem restartUstep_diff (s : State) : (restartUstep s).diff = s.diff := rfl
@[simp] theorem restartUstep_nact (s : State) : (restartUstep s).nact = s.nact := rfl
@[simp] theorem restartUstep_rstate (s : State) : (restartUstep s).rstate = s.rstate := rfl
@[simp] theorem restartUstep_pcur (s : State) : (restartUstep s).pcur = s.pcur := rfl
@[simp] theorem restartUstep_rcur (s : State) : (restartUstep s).rcur = s.rcur := rfl
@[simp] theorem restartUstep_lights (s : State) : (restartUstep s).lights = s.lights := rfl
@[simp] theorem restartUstep_outValid (s : State) : (restartUstep s).outValid = s.outValid := rfl
@[simp] theorem restartUstep_outSuccess (s : State) : (restartUstep s).outSuccess = s.outSuccess := rfl
@[simp] theorem restartUstep_outCount (s : State) : (restartUstep s).outCount = s.outCount := rfl
@[simp] theorem restartUstep_score (s : State) : (restartUstep s).score = s.score := rfl
@[simp] theorem restartUstep_pin (s : State) : (restartUstep s).pin = s.pin := rfl
@[simp] theorem restartUstep_lane (s : State) : (restartUstep s).lane = s.lane := rfl
@[simp] theorem restartUstep_ustep (s : State) : (restartUstep s).ustep = 0 := rfl
@[simp] theorem restartUstep_outLatchLo (s : State) : (restartUstep s).outLatchLo = s.outLatchLo := rfl
@[simp] theorem restartUstep_outLatchHi (s : State) : (restartUstep s).outLatchHi = s.outLatchHi := rfl
@[simp] theorem restartUstep_sw (s : State) : (restartUstep s).sw = s.sw := rfl
@[simp] theorem restartUstep_rand (s : State) : (restartUstep s).rand = s.rand := rfl
@[simp] theorem restartUstep_randPos (s : State) : (restartUstep s).randPos = s.randPos := rfl
@[simp] theorem restartUstep_settleLo (s : State) : (restartUstep s).settleLo = s.settleLo := rfl
@[simp] theorem restartUstep_settleHi (s : State) : (restartUstep s).settleHi = s.settleHi := rfl
@[simp] theorem restartUstep_events (s : State) : (restartUstep s).events = s.events := rfl
@[simp] theorem restartUstep_trace (s : State) : (restartUstep s).trace = s.trace := rfl
@[simp] theorem restartUstep_ret (s : State) : (restartUstep s).ret = s.ret := rfl
@[simp] theorem restartUstep_freeHi (s : State) : (restartUstep s).freeHi = s.freeHi := rfl
@[simp] theorem restartUstep_freeCtr (s : State) : (restartUstep s).freeCtr = s.freeCtr := rfl
@[simp] theorem restartUstep_inbox (s : State) : (restartUstep s).inbox = s.inbox := rfl

@[simp] theorem clearOutcome_cfg (s : State) : (clearOutcome s).cfg = s.cfg := rfl
@[simp] theorem clearOutcome_deb (s : State) : (clearOutcome s).deb = s.deb := rfl
@[simp] theorem clearOutcome_lastRaw (s : State) : (clearOutcome s).lastRaw = s.lastRaw := rfl
@[simp] theorem clearOutcome_tick (s : State) : (clearOutcome s).tick = s.tick := rfl
@[simp] theorem clearOutcome_rdLo (s : State) : (clearOutcome s).rdLo = s.rdLo := rfl
@[simp] theorem clearOutcome_rdHi (s : State) : (clearOutcome s).rdHi = s.rdHi := rfl
@[simp] theorem clearOutcome_map (s : State) : (clearOutcome s).map = s.map := rfl
@[simp] theorem clearOutcome_diff (s : State) : (clearOutcome s).diff = s.diff := rfl
@[simp] theorem clearOutcome_nact (s : State) : (clearOutcome s).nact = s.nact := rfl
@[simp] theorem clearOutcome_rstate (s : State) : (clearOutcome s).rstate = s.rstate := rfl
@[simp] theorem clearOutcome_pcur (s : State) : (clearOutcome s).pcur = s.pcur := rfl
@[simp] theorem clearOutcome_rcur (s : State) : (clearOutcome s).rcur = s.rcur := rfl
@[simp] theorem clearOutcome_lights (s : State) : (clearOutcome s).lights = s.lights := rfl
@[simp] theorem clearOutcome_outValid (s : State) : (clearOutcome s).outValid = false := rfl
@[simp] theorem clearOutcome_outSuccess (s : State) : (clearOutcome s).outSuccess = false := rfl
@[simp] theorem clearOutcome_outCount (s : State) : (clearOutcome s).outCount = 0#4 := rfl
@[simp] theorem clearOutcome_score (s : State) : (clearOutcome s).score = s.score := rfl
@[simp] theorem clearOutcome_pin (s : State) : (clearOutcome s).pin = s.pin := rfl
@[simp] theorem clearOutcome_lane (s : State) : (clearOutcome s).lane = s.lane := rfl
@[simp] theorem clearOutcome_ustep (s : State) : (clearOutcome s).ustep = s.ustep := rfl
@[simp] theorem clearOutcome_outLatchLo (s : State) : (clearOutcome s).outLatchLo = s.outLatchLo := rfl
@[simp] theorem clearOutcome_outLatchHi (s : State) : (clearOutcome s).outLatchHi = s.outLatchHi := rfl
@[simp] theorem clearOutcome_sw (s : State) : (clearOutcome s).sw = s.sw := rfl
@[simp] theorem clearOutcome_rand (s : State) : (clearOutcome s).rand = s.rand := rfl
@[simp] theorem clearOutcome_randPos (s : State) : (clearOutcome s).randPos = s.randPos := rfl
@[simp] theorem clearOutcome_settleLo (s : State) : (clearOutcome s).settleLo = s.settleLo := rfl
@[simp] theorem clearOutcome_settleHi (s : State) : (clearOutcome s).settleHi = s.settleHi := rfl
@[simp] theorem clearOutcome_events (s : State) : (clearOutcome s).events = s.events := rfl
@[simp] theorem clearOutcome_trace (s : State) : (clearOutcome s).trace = s.trace := rfl
@[simp] theorem clearOutcome_ret (s : State) : (clearOutcome s).ret = s.ret := rfl
@[simp] theorem clearOutcome_freeHi (s : State) : (clearOutcome s).freeHi = s.freeHi := rfl
@[simp] theorem clearOutcome_freeCtr (s : State) : (clearOutcome s).freeCtr = s.freeCtr := rfl
@[simp] theorem clearOutcome_inbox (s : State) : (clearOutcome s).inbox = s.inbox := rfl

@[simp] theorem setOutcome_cfg (b : Bool) (c : Index) (s : State) : (setOutcome b c s).cfg = s.cfg := rfl
@[simp] theorem setOutcome_deb (b : Bool) (c : Index) (s : State) : (setOutcome b c s).deb = s.deb := rfl
@[simp] theorem setOutcome_lastRaw (b : Bool) (c : Index) (s : State) : (setOutcome b c s).lastRaw = s.lastRaw := rfl
@[simp] theorem setOutcome_tick (b : Bool) (c : Index) (s : State) : (setOutcome b c s).tick = s.tick := rfl
@[simp] theorem setOutcome_rdLo (b : Bool) (c : Index) (s : State) : (setOutcome b c s).rdLo = s.rdLo := rfl
@[simp] theorem setOutcome_rdHi (b : Bool) (c : Index) (s : State) : (setOutcome b c s).rdHi = s.rdHi := rfl
@[simp] theorem setOutcome_map (b : Bool) (c : Index) (s : State) : (setOutcome b c s).map = s.map := rfl
@[simp] theorem setOutcome_diff (b : Bool) (c : Index) (s : State) : (setOutcome b c s).diff = s.diff := rfl
@[simp] theorem setOutcome_nact (b : Bool) (c : Index) (s : State) : (setOutcome b c s).nact = s.nact := rfl
@[simp] theorem setOutcome_rstate (b : Bool) (c : Index) (s : State) : (setOutcome b c s).rstate = s.rstate := rfl
@[simp] theorem setOutcome_pcur (b : Bool) (c : Index) (s : State) : (setOutcome b c s).pcur = s.pcur := rfl
@[simp] theorem setOutcome_rcur (b : Bool) (c : Index) (s : State) : (setOutcome b c s).rcur = s.rcur := rfl
@[simp] theorem setOutcome_lights (b : Bool) (c : Index) (s : State) : (setOutcome b c s).lights = s.lights := rfl
@[simp] theorem setOutcome_outValid (b : Bool) (c : Index) (s : State) : (setOutcome b c s).outValid = true := rfl
@[simp] theorem setOutcome_outSuccess (b : Bool) (c : Index) (s : State) : (setOutcome b c s).outSuccess = b := rfl
@[simp] theorem setOutcome_outCount (b : Bool) (c : Index) (s : State) : (setOutcome b c s).outCount = c := rfl
@[simp] theorem setOutcome_score (b : Bool) (c : Index) (s : State) : (setOutcome b c s).score = s.score := rfl
@[simp] theorem setOutcome_pin (b : Bool) (c : Index) (s : State) : (setOutcome b c s).pin = s.pin := rfl
@[simp] theorem setOutcome_lane (b : Bool) (c : Index) (s : State) : (setOutcome b c s).lane = s.lane := rfl
@[simp] theorem setOutcome_ustep (b : Bool) (c : Index) (s : State) : (setOutcome b c s).ustep = s.ustep := rfl
@[simp] theorem setOutcome_outLatchLo (b : Bool) (c : Index) (s : State) : (setOutcome b c s).outLatchLo = s.outLatchLo := rfl
@[simp] theorem setOutcome_outLatchHi (b : Bool) (c : Index) (s : State) : (setOutcome b c s).outLatchHi = s.outLatchHi := rfl
@[simp] theorem setOutcome_sw (b : Bool) (c : Index) (s : State) : (setOutcome b c s).sw = s.sw := rfl
@[simp] theorem setOutcome_rand (b : Bool) (c : Index) (s : State) : (setOutcome b c s).rand = s.rand := rfl
@[simp] theorem setOutcome_randPos (b : Bool) (c : Index) (s : State) : (setOutcome b c s).randPos = s.randPos := rfl
@[simp] theorem setOutcome_settleLo (b : Bool) (c : Index) (s : State) : (setOutcome b c s).settleLo = s.settleLo := rfl
@[simp] theorem setOutcome_settleHi (b : Bool) (c : Index) (s : State) : (setOutcome b c s).settleHi = s.settleHi := rfl
@[simp] theorem setOutcome_events (b : Bool) (c : Index) (s : State) : (setOutcome b c s).events = s.events := rfl
@[simp] theorem setOutcome_trace (b : Bool) (c : Index) (s : State) : (setOutcome b c s).trace = s.trace := rfl
@[simp] theorem setOutcome_ret (b : Bool) (c : Index) (s : State) : (setOutcome b c s).ret = s.ret := rfl
@[simp] theorem setOutcome_freeHi (b : Bool) (c : Index) (s : State) : (setOutcome b c s).freeHi = s.freeHi := rfl
@[simp] theorem setOutcome_freeCtr (b : Bool) (c : Index) (s : State) : (setOutcome b c s).freeCtr = s.freeCtr := rfl
@[simp] theorem setOutcome_inbox (b : Bool) (c : Index) (s : State) : (setOutcome b c s).inbox = s.inbox := rfl

@[simp] theorem addScore_cfg (c : Index) (s : State) : (addScore c s).cfg = s.cfg := rfl
@[simp] theorem addScore_deb (c : Index) (s : State) : (addScore c s).deb = s.deb := rfl
@[simp] theorem addScore_lastRaw (c : Index) (s : State) : (addScore c s).lastRaw = s.lastRaw := rfl
@[simp] theorem addScore_tick (c : Index) (s : State) : (addScore c s).tick = s.tick := rfl
@[simp] theorem addScore_rdLo (c : Index) (s : State) : (addScore c s).rdLo = s.rdLo := rfl
@[simp] theorem addScore_rdHi (c : Index) (s : State) : (addScore c s).rdHi = s.rdHi := rfl
@[simp] theorem addScore_map (c : Index) (s : State) : (addScore c s).map = s.map := rfl
@[simp] theorem addScore_diff (c : Index) (s : State) : (addScore c s).diff = s.diff := rfl
@[simp] theorem addScore_nact (c : Index) (s : State) : (addScore c s).nact = s.nact := rfl
@[simp] theorem addScore_rstate (c : Index) (s : State) : (addScore c s).rstate = s.rstate := rfl
@[simp] theorem addScore_pcur (c : Index) (s : State) : (addScore c s).pcur = s.pcur := rfl
@[simp] theorem addScore_rcur (c : Index) (s : State) : (addScore c s).rcur = s.rcur := rfl
@[simp] theorem addScore_lights (c : Index) (s : State) : (addScore c s).lights = s.lights := rfl
@[simp] theorem addScore_outValid (c : Index) (s : State) : (addScore c s).outValid = s.outValid := rfl
@[simp] theorem addScore_outSuccess (c : Index) (s : State) : (addScore c s).outSuccess = s.outSuccess := rfl
@[simp] theorem addScore_outCount (c : Index) (s : State) : (addScore c s).outCount = s.outCount := rfl
@[simp] theorem addScore_score (c : Index) (s : State) : (addScore c s).score = saturatingScore s.cfg s.score c := rfl
@[simp] theorem addScore_pin (c : Index) (s : State) : (addScore c s).pin = s.pin := rfl
@[simp] theorem addScore_lane (c : Index) (s : State) : (addScore c s).lane = s.lane := rfl
@[simp] theorem addScore_ustep (c : Index) (s : State) : (addScore c s).ustep = s.ustep := rfl
@[simp] theorem addScore_outLatchLo (c : Index) (s : State) : (addScore c s).outLatchLo = s.outLatchLo := rfl
@[simp] theorem addScore_outLatchHi (c : Index) (s : State) : (addScore c s).outLatchHi = s.outLatchHi := rfl
@[simp] theorem addScore_sw (c : Index) (s : State) : (addScore c s).sw = s.sw := rfl
@[simp] theorem addScore_rand (c : Index) (s : State) : (addScore c s).rand = s.rand := rfl
@[simp] theorem addScore_randPos (c : Index) (s : State) : (addScore c s).randPos = s.randPos := rfl
@[simp] theorem addScore_settleLo (c : Index) (s : State) : (addScore c s).settleLo = s.settleLo := rfl
@[simp] theorem addScore_settleHi (c : Index) (s : State) : (addScore c s).settleHi = s.settleHi := rfl
@[simp] theorem addScore_events (c : Index) (s : State) : (addScore c s).events = s.events := rfl
@[simp] theorem addScore_trace (c : Index) (s : State) : (addScore c s).trace = s.trace := rfl
@[simp] theorem addScore_ret (c : Index) (s : State) : (addScore c s).ret = s.ret := rfl
@[simp] theorem addScore_freeHi (c : Index) (s : State) : (addScore c s).freeHi = s.freeHi := rfl
@[simp] theorem addScore_freeCtr (c : Index) (s : State) : (addScore c s).freeCtr = s.freeCtr := rfl
@[simp] theorem addScore_inbox (c : Index) (s : State) : (addScore c s).inbox = s.inbox := rfl

@[simp] theorem initMap_cfg (s : State) : (initMap s).cfg = s.cfg := rfl
@[simp] theorem initMap_deb (s : State) : (initMap s).deb = s.deb := rfl
@[simp] theorem initMap_lastRaw (s : State) : (initMap s).lastRaw = s.lastRaw := rfl
@[simp] theorem initMap_tick (s : State) : (initMap s).tick = s.tick := rfl
@[simp] theorem initMap_rdLo (s : State) : (initMap s).rdLo = s.rdLo := rfl
@[simp] theorem initMap_rdHi (s : State) : (initMap s).rdHi = s.rdHi := rfl
@[simp] theorem initMap_map (s : State) : (initMap s).map = identityMap := rfl
@[simp] theorem initMap_diff (s : State) : (initMap s).diff = s.diff := rfl
@[simp] theorem initMap_nact (s : State) : (initMap s).nact = s.nact := rfl
@[simp] theorem initMap_rstate (s : State) : (initMap s).rstate = s.rstate := rfl
@[simp] theorem initMap_pcur (s : State) : (initMap s).pcur = s.pcur := rfl
@[simp] theorem initMap_rcur (s : State) : (initMap s).rcur = s.rcur := rfl
@[simp] theorem initMap_lights (s : State) : (initMap s).lights = s.lights := rfl
@[simp] theorem initMap_outValid (s : State) : (initMap s).outValid = s.outValid := rfl
@[simp] theorem initMap_outSuccess (s : State) : (initMap s).outSuccess = s.outSuccess := rfl
@[simp] theorem initMap_outCount (s : State) : (initMap s).outCount = s.outCount := rfl
@[simp] theorem initMap_score (s : State) : (initMap s).score = s.score := rfl
@[simp] theorem initMap_pin (s : State) : (initMap s).pin = s.pin := rfl
@[simp] theorem initMap_lane (s : State) : (initMap s).lane = s.lane := rfl
@[simp] theorem initMap_ustep (s : State) : (initMap s).ustep = s.ustep := rfl
@[simp] theorem initMap_outLatchLo (s : State) : (initMap s).outLatchLo = s.outLatchLo := rfl
@[simp] theorem initMap_outLatchHi (s : State) : (initMap s).outLatchHi = s.outLatchHi := rfl
@[simp] theorem initMap_sw (s : State) : (initMap s).sw = s.sw := rfl
@[simp] theorem initMap_rand (s : State) : (initMap s).rand = s.rand := rfl
@[simp] theorem initMap_randPos (s : State) : (initMap s).randPos = s.randPos := rfl
@[simp] theorem initMap_settleLo (s : State) : (initMap s).settleLo = s.settleLo := rfl
@[simp] theorem initMap_settleHi (s : State) : (initMap s).settleHi = s.settleHi := rfl
@[simp] theorem initMap_events (s : State) : (initMap s).events = s.events := rfl
@[simp] theorem initMap_trace (s : State) : (initMap s).trace = s.trace := rfl
@[simp] theorem initMap_ret (s : State) : (initMap s).ret = s.ret := rfl
@[simp] theorem initMap_freeHi (s : State) : (initMap s).freeHi = s.freeHi := rfl
@[simp] theorem initMap_freeCtr (s : State) : (initMap s).freeCtr = s.freeCtr := rfl
@[simp] theorem initMap_inbox (s : State) : (initMap s).inbox = s.inbox := rfl

@[simp] theorem takeRand_cfg (s : State) : (takeRand s).cfg = s.cfg := rfl
@[simp] theorem takeRand_deb (s : State) : (takeRand s).deb = s.deb := rfl
@[simp] theorem takeRand_lastRaw (s : State) : (takeRand s).lastRaw = s.lastRaw := rfl
@[simp] theorem takeRand_tick (s : State) : (takeRand s).tick = s.tick := rfl
@[simp] theorem takeRand_rdLo (s : State) : (takeRand s).rdLo = s.rdLo := rfl
@[simp] theorem takeRand_rdHi (s : State) : (takeRand s).rdHi = s.rdHi := rfl
@[simp] theorem takeRand_map (s : State) : (takeRand s).map = s.map := rfl
@[simp] theorem takeRand_diff (s : State) : (takeRand s).diff = s.diff := rfl
@[simp] theorem takeRand_nact (s : State) : (takeRand s).nact = s.nact := rfl
@[simp] theorem takeRand_rstate (s : State) : (takeRand s).rstate = s.rstate := rfl
@[simp] theorem takeRand_pcur (s : State) : (takeRand s).pcur = s.pcur := rfl
@[simp] theorem takeRand_rcur (s : State) : (takeRand s).rcur = s.rcur := rfl
@[simp] theorem takeRand_lights (s : State) : (takeRand s).lights = s.lights := rfl
@[simp] theorem takeRand_outValid (s : State) : (takeRand s).outValid = s.outValid := rfl
@[simp] theorem takeRand_outSuccess (s : State) : (takeRand s).outSuccess = s.outSuccess := rfl
@[simp] theorem takeRand_outCount (s : State) : (takeRand s).outCount = s.outCount := rfl
@[simp] theorem takeRand_score (s : State) : (takeRand s).score = s.score := rfl
@[simp] theorem takeRand_pin (s : State) : (takeRand s).pin = s.pin := rfl
@[simp] theorem takeRand_lane (s : State) : (takeRand s).lane = s.lane := rfl
@[simp] theorem takeRand_ustep (s : State) : (takeRand s).ustep = s.ustep := rfl
@[simp] theorem takeRand_outLatchLo (s : State) : (takeRand s).outLatchLo = s.outLatchLo := rfl
@[simp] theorem takeRand_outLatchHi (s : State) : (takeRand s).outLatchHi = s.outLatchHi := rfl
@[simp] theorem takeRand_sw (s : State) : (takeRand s).sw = s.sw := rfl
@[simp] theorem takeRand_rand (s : State) : (takeRand s).rand = s.rand.tail := rfl
@[simp] theorem takeRand_randPos (s : State) : (takeRand s).randPos = s.randPos + 1 := rfl
@[simp] theorem takeRand_settleLo (s : State) : (takeRand s).settleLo = s.settleLo := rfl
@[simp] theorem takeRand_settleHi (s : State) : (takeRand s).settleHi = s.settleHi := rfl
@[simp] theorem takeRand_events (s : State) : (takeRand s).events = s.events := rfl
@[simp] theorem takeRand_trace (s : State) : (takeRand s).trace = s.trace := rfl
@[simp] theorem takeRand_ret (s : State) : (takeRand s).ret = s.ret := rfl
@[simp] theorem takeRand_freeHi (s : State) : (takeRand s).freeHi = s.freeHi := rfl
@[simp] theorem takeRand_freeCtr (s : State) : (takeRand s).freeCtr = s.freeCtr := rfl
@[simp] theorem takeRand_inbox (s : State) : (takeRand s).inbox = s.inbox := rfl

@[simp] theorem dropRand_cfg (n : Nat) (s : State) : (dropRand n s).cfg = s.cfg := rfl
@[simp] theorem dropRand_deb (n : Nat) (s : State) : (dropRand n s).deb = s.deb := rfl
@[simp] theorem dropRand_lastRaw (n : Nat) (s : State) : (dropRand n s).lastRaw = s.lastRaw := rfl
@[simp] theorem dropRand_tick (n : Nat) (s : State) : (dropRand n s).tick = s.tick := rfl
@[simp] theorem dropRand_rdLo (n : Nat) (s : State) : (dropRand n s).rdLo = s.rdLo := rfl
@[simp] theorem dropRand_rdHi (n : Nat) (s : State) : (dropRand n s).rdHi = s.rdHi := rfl
@[simp] theorem dropRand_map (n : Nat) (s : State) : (dropRand n s).map = s.map := rfl
@[simp] theorem dropRand_diff (n : Nat) (s : State) : (dropRand n s).diff = s.diff := rfl
@[simp] theorem dropRand_nact (n : Nat) (s : State) : (dropRand n s).nact = s.nact := rfl
@[simp] theorem dropRand_rstate (n : Nat) (s : State) : (dropRand n s).rstate = s.rstate := rfl
@[simp] theorem dropRand_pcur (n : Nat) (s : State) : (dropRand n s).pcur = s.pcur := rfl
@[simp] theorem dropRand_rcur (n : Nat) (s : State) : (dropRand n s).rcur = s.rcur := rfl
@[simp] theorem dropRand_lights (n : Nat) (s : State) : (dropRand n s).lights = s.lights := rfl
@[simp] theorem dropRand_outValid (n : Nat) (s : State) : (dropRand n s).outValid = s.outValid := rfl
@[simp] theorem dropRand_outSuccess (n : Nat) (s : State) : (dropRand n s).outSuccess = s.outSuccess := rfl
@[simp] theorem dropRand_outCount (n : Nat) (s : State) : (dropRand n s).outCount = s.outCount := rfl
@[simp] theorem dropRand_score (n : Nat) (s : State) : (dropRand n s).score = s.score := rfl
@[simp] theorem dropRand_pin (n : Nat) (s : State) : (dropRand n s).pin = s.pin := rfl
@[simp] theorem dropRand_lane (n : Nat) (s : State) : (dropRand n s).lane = s.lane := rfl
@[simp] theorem dropRand_ustep (n : Nat) (s : State) : (dropRand n s).ustep = s.ustep := rfl
@[simp] theorem dropRand_outLatchLo (n : Nat) (s : State) : (dropRand n s).outLatchLo = s.outLatchLo := rfl
@[simp] theorem dropRand_outLatchHi (n : Nat) (s : State) : (dropRand n s).outLatchHi = s.outLatchHi := rfl
@[simp] theorem dropRand_sw (n : Nat) (s : State) : (dropRand n s).sw = s.sw := rfl
@[simp] theorem dropRand_rand (n : Nat) (s : State) : (dropRand n s).rand = s.rand.drop n := rfl
@[simp] theorem dropRand_randPos (n : Nat) (s : State) : (dropRand n s).randPos = s.randPos + n := rfl
@[simp] theorem dropRand_settleLo (n : Nat) (s : State) : (dropRand n s).settleLo = s.settleLo := rfl
@[simp] theorem dropRand_settleHi (n : Nat) (s : State) : (dropRand n s).settleHi = s.settleHi := rfl
@[simp] theorem dropRand_events (n : Nat) (s : State) : (dropRand n s).events = s.events := rfl
@[simp] theorem dropRand_trace (n : Nat) (s : State) : (dropRand n s).trace = s.trace := rfl
@[simp] theorem dropRand_ret (n : Nat) (s : State) : (dropRand n s).ret = s.ret := rfl
@[simp] theorem dropRand_freeHi (n : Nat) (s : State) : (dropRand n s).freeHi = s.freeHi := rfl
@[simp] theorem dropRand_freeCtr (n : Nat) (s : State) : (dropRand n s).freeCtr = s.freeCtr := rfl
@[simp] theorem dropRand_inbox (n : Nat) (s : State) : (dropRand n s).inbox = s.inbox := rfl

@[simp] theorem emitEvent_cfg (k : Index) (b : Bool) (s : State) : (emitEvent k b s).cfg = s.cfg := rfl
@[simp] theorem emitEvent_deb (k : Index) (b : Bool) (s : State) : (emitEvent k b s).deb = s.deb := rfl
@[simp] theorem emitEvent_lastRaw (k : Index) (b : Bool) (s : State) : (emitEvent k b s).lastRaw = s.lastRaw := rfl
@[simp] theorem emitEvent_tick (k : Index) (b : Bool) (s : State) : (emitEvent k b s).tick = s.tick := rfl
@[simp] theorem emitEvent_rdLo (k : Index) (b : Bool) (s : State) : (emitEvent k b s).rdLo = s.rdLo := rfl
@[simp] theorem emitEvent_rdHi (k : Index) (b : Bool) (s : State) : (emitEvent k b s).rdHi = s.rdHi := rfl
@[simp] theorem emitEvent_map (k : Index) (b : Bool) (s : State) : (emitEvent k b s).map = s.map := rfl
@[simp] theorem emitEvent_diff (k : Index) (b : Bool) (s : State) : (emitEvent k b s).diff = s.diff := rfl
@[simp] theorem emitEvent_nact (k : Index) (b : Bool) (s : State) : (emitEvent k b s).nact = s.nact := rfl
@[simp] theorem emitEvent_rstate (k : Index) (b : Bool) (s : State) : (emitEvent k b s).rstate = s.rstate := rfl
@[simp] theorem emitEvent_pcur (k : Index) (b : Bool) (s : State) : (emitEvent k b s).pcur = s.pcur := rfl
@[simp] theorem emitEvent_rcur (k : Index) (b : Bool) (s : State) : (emitEvent k b s).rcur = s.rcur := rfl
@[simp] theorem emitEvent_lights (k : Index) (b : Bool) (s : State) : (emitEvent k b s).lights = s.lights := rfl
@[simp] theorem emitEvent_outValid (k : Index) (b : Bool) (s : State) : (emitEvent k b s).outValid = s.outValid := rfl
@[simp] theorem emitEvent_outSuccess (k : Index) (b : Bool) (s : State) : (emitEvent k b s).outSuccess = s.outSuccess := rfl
@[simp] theorem emitEvent_outCount (k : Index) (b : Bool) (s : State) : (emitEvent k b s).outCount = s.outCount := rfl
@[simp] theorem emitEvent_score (k : Index) (b : Bool) (s : State) : (emitEvent k b s).score = s.score := rfl
@[simp] theorem emitEvent_pin (k : Index) (b : Bool) (s : State) : (emitEvent k b s).pin = s.pin := rfl
@[simp] theorem emitEvent_lane (k : Index) (b : Bool) (s : State) : (emitEvent k b s).lane = s.lane := rfl
@[simp] theorem emitEvent_ustep (k : Index) (b : Bool) (s : State) : (emitEvent k b s).ustep = s.ustep := rfl
@[simp] theorem emitEvent_outLatchLo (k : Index) (b : Bool) (s : State) : (emitEvent k b s).outLatchLo = s.outLatchLo := rfl
@[simp] theorem emitEvent_outLatchHi (k : Index) (b : Bool) (s : State) : (emitEvent k b s).outLatchHi = s.outLatchHi := rfl
@[simp] theorem emitEvent_sw (k : Index) (b : Bool) (s : State) : (emitEvent k b s).sw = s.sw := rfl
@[simp] theorem emitEvent_rand (k : Index) (b : Bool) (s : State) : (emitEvent k b s).rand = s.rand := rfl
@[simp] theorem emitEvent_randPos (k : Index) (b : Bool) (s : State) : (emitEvent k b s).randPos = s.randPos := rfl
@[simp] theorem emitEvent_settleLo (k : Index) (b : Bool) (s : State) : (emitEvent k b s).settleLo = s.settleLo := rfl
@[simp] theorem emitEvent_settleHi (k : Index) (b : Bool) (s : State) : (emitEvent k b s).settleHi = s.settleHi := rfl
@[simp] theorem emitEvent_events (k : Index) (b : Bool) (s : State) : (emitEvent k b s).events = s.events ++ [{ ts := s.tick, tr := b, button := k }] := rfl
@[simp] theorem emitEvent_trace (k : Index) (b : Bool) (s : State) : (emitEvent k b s).trace = s.trace := rfl
@[simp] theorem emitEvent_ret (k : Index) (b : Bool) (s : State) : (emitEvent k b s).ret = s.ret := rfl
@[simp] theorem emitEvent_freeHi (k : Index) (b : Bool) (s : State) : (emitEvent k b s).freeHi = s.freeHi := rfl
@[simp] theorem emitEvent_freeCtr (k : Index) (b : Bool) (s : State) : (emitEvent k b s).freeCtr = s.freeCtr := rfl
@[simp] theorem emitEvent_inbox (k : Index) (b : Bool) (s : State) : (emitEvent k b s).inbox = s.inbox := rfl

@[simp] theorem beginRound_cfg (s : State) : (beginRound s).cfg = s.cfg := rfl
@[simp] theorem beginRound_deb (s : State) : (beginRound s).deb = s.deb := rfl
@[simp] theorem beginRound_lastRaw (s : State) : (beginRound s).lastRaw = s.lastRaw := rfl
@[simp] theorem beginRound_tick (s : State) : (beginRound s).tick = s.tick := rfl
@[simp] theorem beginRound_rdLo (s : State) : (beginRound s).rdLo = s.rdLo := rfl
@[simp] theorem beginRound_rdHi (s : State) : (beginRound s).rdHi = s.rdHi := rfl
@[simp] theorem beginRound_map (s : State) : (beginRound s).map = s.map := rfl
@[simp] theorem beginRound_diff (s : State) : (beginRound s).diff = s.diff := rfl
@[simp] theorem beginRound_nact (s : State) : (beginRound s).nact = s.nact := rfl
@[simp] theorem beginRound_rstate (s : State) : (beginRound s).rstate = s.rstate := rfl
@[simp] theorem beginRound_pcur (s : State) : (beginRound s).pcur = 0#4 := rfl
@[simp] theorem beginRound_rcur (s : State) : (beginRound s).rcur = 0#4 := rfl
@[simp] theorem beginRound_lights (s : State) : (beginRound s).lights = s.lights := rfl
@[simp] theorem beginRound_outValid (s : State) : (beginRound s).outValid = false := rfl
@[simp] theorem beginRound_outSuccess (s : State) : (beginRound s).outSuccess = false := rfl
@[simp] theorem beginRound_outCount (s : State) : (beginRound s).outCount = 0#4 := rfl
@[simp] theorem beginRound_score (s : State) : (beginRound s).score = s.score := rfl
@[simp] theorem beginRound_pin (s : State) : (beginRound s).pin = s.pin := rfl
@[simp] theorem beginRound_lane (s : State) : (beginRound s).lane = s.lane := rfl
@[simp] theorem beginRound_ustep (s : State) : (beginRound s).ustep = s.ustep := rfl
@[simp] theorem beginRound_outLatchLo (s : State) : (beginRound s).outLatchLo = s.outLatchLo := rfl
@[simp] theorem beginRound_outLatchHi (s : State) : (beginRound s).outLatchHi = s.outLatchHi := rfl
@[simp] theorem beginRound_sw (s : State) : (beginRound s).sw = s.sw := rfl
@[simp] theorem beginRound_rand (s : State) : (beginRound s).rand = s.rand := rfl
@[simp] theorem beginRound_randPos (s : State) : (beginRound s).randPos = s.randPos := rfl
@[simp] theorem beginRound_settleLo (s : State) : (beginRound s).settleLo = s.settleLo := rfl
@[simp] theorem beginRound_settleHi (s : State) : (beginRound s).settleHi = s.settleHi := rfl
@[simp] theorem beginRound_events (s : State) : (beginRound s).events = s.events := rfl
@[simp] theorem beginRound_trace (s : State) : (beginRound s).trace = s.trace := rfl
@[simp] theorem beginRound_ret (s : State) : (beginRound s).ret = s.ret := rfl
@[simp] theorem beginRound_freeHi (s : State) : (beginRound s).freeHi = s.freeHi := rfl
@[simp] theorem beginRound_freeCtr (s : State) : (beginRound s).freeCtr = s.freeCtr := rfl
@[simp] theorem beginRound_inbox (s : State) : (beginRound s).inbox = s.inbox := rfl

@[simp] theorem endRound_cfg (b : Bool) (c : Index) (s : State) : (endRound b c s).cfg = s.cfg := rfl
@[simp] theorem endRound_deb (b : Bool) (c : Index) (s : State) : (endRound b c s).deb = s.deb := rfl
@[simp] theorem endRound_lastRaw (b : Bool) (c : Index) (s : State) : (endRound b c s).lastRaw = s.lastRaw := rfl
@[simp] theorem endRound_tick (b : Bool) (c : Index) (s : State) : (endRound b c s).tick = s.tick := rfl
@[simp] theorem endRound_rdLo (b : Bool) (c : Index) (s : State) : (endRound b c s).rdLo = s.rdLo := rfl
@[simp] theorem endRound_rdHi (b : Bool) (c : Index) (s : State) : (endRound b c s).rdHi = s.rdHi := rfl
@[simp] theorem endRound_map (b : Bool) (c : Index) (s : State) : (endRound b c s).map = s.map := rfl
@[simp] theorem endRound_diff (b : Bool) (c : Index) (s : State) : (endRound b c s).diff = s.diff := rfl
@[simp] theorem endRound_nact (b : Bool) (c : Index) (s : State) : (endRound b c s).nact = s.nact := rfl
@[simp] theorem endRound_rstate (b : Bool) (c : Index) (s : State) : (endRound b c s).rstate = stIdle := rfl
@[simp] theorem endRound_pcur (b : Bool) (c : Index) (s : State) : (endRound b c s).pcur = s.pcur := rfl
@[simp] theorem endRound_rcur (b : Bool) (c : Index) (s : State) : (endRound b c s).rcur = s.rcur := rfl
@[simp] theorem endRound_lights (b : Bool) (c : Index) (s : State) : (endRound b c s).lights = s.lights := rfl
@[simp] theorem endRound_outValid (b : Bool) (c : Index) (s : State) : (endRound b c s).outValid = true := rfl
@[simp] theorem endRound_outSuccess (b : Bool) (c : Index) (s : State) : (endRound b c s).outSuccess = b := rfl
@[simp] theorem endRound_outCount (b : Bool) (c : Index) (s : State) : (endRound b c s).outCount = c := rfl
@[simp] theorem endRound_score (b : Bool) (c : Index) (s : State) : (endRound b c s).score = saturatingScore s.cfg s.score c := rfl
@[simp] theorem endRound_pin (b : Bool) (c : Index) (s : State) : (endRound b c s).pin = s.pin := rfl
@[simp] theorem endRound_lane (b : Bool) (c : Index) (s : State) : (endRound b c s).lane = s.lane := rfl
@[simp] theorem endRound_ustep (b : Bool) (c : Index) (s : State) : (endRound b c s).ustep = s.ustep := rfl
@[simp] theorem endRound_outLatchLo (b : Bool) (c : Index) (s : State) : (endRound b c s).outLatchLo = s.outLatchLo := rfl
@[simp] theorem endRound_outLatchHi (b : Bool) (c : Index) (s : State) : (endRound b c s).outLatchHi = s.outLatchHi := rfl
@[simp] theorem endRound_sw (b : Bool) (c : Index) (s : State) : (endRound b c s).sw = s.sw := rfl
@[simp] theorem endRound_rand (b : Bool) (c : Index) (s : State) : (endRound b c s).rand = s.rand := rfl
@[simp] theorem endRound_randPos (b : Bool) (c : Index) (s : State) : (endRound b c s).randPos = s.randPos := rfl
@[simp] theorem endRound_settleLo (b : Bool) (c : Index) (s : State) : (endRound b c s).settleLo = s.settleLo := rfl
@[simp] theorem endRound_settleHi (b : Bool) (c : Index) (s : State) : (endRound b c s).settleHi = s.settleHi := rfl
@[simp] theorem endRound_events (b : Bool) (c : Index) (s : State) : (endRound b c s).events = s.events := rfl
@[simp] theorem endRound_trace (b : Bool) (c : Index) (s : State) : (endRound b c s).trace = s.trace := rfl
@[simp] theorem endRound_ret (b : Bool) (c : Index) (s : State) : (endRound b c s).ret = s.ret := rfl
@[simp] theorem endRound_freeHi (b : Bool) (c : Index) (s : State) : (endRound b c s).freeHi = s.freeHi := rfl
@[simp] theorem endRound_freeCtr (b : Bool) (c : Index) (s : State) : (endRound b c s).freeCtr = s.freeCtr := rfl
@[simp] theorem endRound_inbox (b : Bool) (c : Index) (s : State) : (endRound b c s).inbox = s.inbox := rfl

@[simp] theorem resetBlock_cfg (s : State) : (resetBlock s).cfg = s.cfg := rfl
@[simp] theorem resetBlock_deb (s : State) : (resetBlock s).deb = 0x000#10 := rfl
@[simp] theorem resetBlock_lastRaw (s : State) : (resetBlock s).lastRaw = 0x000#10 := rfl
@[simp] theorem resetBlock_tick (s : State) : (resetBlock s).tick = 0#32 := rfl
@[simp] theorem resetBlock_rdLo (s : State) : (resetBlock s).rdLo = 0x00#8 := rfl
@[simp] theorem resetBlock_rdHi (s : State) : (resetBlock s).rdHi = 0x00#8 := rfl
@[simp] theorem resetBlock_map (s : State) : (resetBlock s).map = identityMap := rfl
@[simp] theorem resetBlock_diff (s : State) : (resetBlock s).diff = 0#2 := rfl
@[simp] theorem resetBlock_nact (s : State) : (resetBlock s).nact = 0#4 := rfl
@[simp] theorem resetBlock_rstate (s : State) : (resetBlock s).rstate = stIdle := rfl
@[simp] theorem resetBlock_pcur (s : State) : (resetBlock s).pcur = 0#4 := rfl
@[simp] theorem resetBlock_rcur (s : State) : (resetBlock s).rcur = 0#4 := rfl
@[simp] theorem resetBlock_lights (s : State) : (resetBlock s).lights = 0x000#10 := rfl
@[simp] theorem resetBlock_outValid (s : State) : (resetBlock s).outValid = false := rfl
@[simp] theorem resetBlock_outSuccess (s : State) : (resetBlock s).outSuccess = false := rfl
@[simp] theorem resetBlock_outCount (s : State) : (resetBlock s).outCount = 0#4 := rfl
@[simp] theorem resetBlock_score (s : State) : (resetBlock s).score = 0 := rfl
@[simp] theorem resetBlock_pin (s : State) : (resetBlock s).pin = { busOut := 0x00#8, busDir := false, stbLo := false, stbHi := false, oeLoN := true, oeHiN := true } := rfl
@[simp] theorem resetBlock_lane (s : State) : (resetBlock s).lane = 0#4 := rfl
@[simp] theorem resetBlock_ustep (s : State) : (resetBlock s).ustep = 0 := rfl
@[simp] theorem resetBlock_outLatchLo (s : State) : (resetBlock s).outLatchLo = s.outLatchLo := rfl
@[simp] theorem resetBlock_outLatchHi (s : State) : (resetBlock s).outLatchHi = s.outLatchHi := rfl
@[simp] theorem resetBlock_sw (s : State) : (resetBlock s).sw = s.sw := rfl
@[simp] theorem resetBlock_rand (s : State) : (resetBlock s).rand = s.rand := rfl
@[simp] theorem resetBlock_randPos (s : State) : (resetBlock s).randPos = s.randPos := rfl
@[simp] theorem resetBlock_settleLo (s : State) : (resetBlock s).settleLo = 0 := rfl
@[simp] theorem resetBlock_settleHi (s : State) : (resetBlock s).settleHi = 0 := rfl
@[simp] theorem resetBlock_events (s : State) : (resetBlock s).events = s.events := rfl
@[simp] theorem resetBlock_trace (s : State) : (resetBlock s).trace = s.trace := rfl
@[simp] theorem resetBlock_ret (s : State) : (resetBlock s).ret = s.ret := rfl
@[simp] theorem resetBlock_freeHi (s : State) : (resetBlock s).freeHi = s.freeHi := rfl
@[simp] theorem resetBlock_freeCtr (s : State) : (resetBlock s).freeCtr = s.freeCtr := rfl
@[simp] theorem resetBlock_inbox (s : State) : (resetBlock s).inbox = s.inbox := rfl

@[simp] theorem beginStep_cfg (c : Cmd) (rest : List Cmd) (s : State) : (beginStep c rest s).cfg = s.cfg := rfl
@[simp] theorem beginStep_deb (c : Cmd) (rest : List Cmd) (s : State) : (beginStep c rest s).deb = s.deb := rfl
@[simp] theorem beginStep_lastRaw (c : Cmd) (rest : List Cmd) (s : State) : (beginStep c rest s).lastRaw = s.lastRaw := rfl
@[simp] theorem beginStep_tick (c : Cmd) (rest : List Cmd) (s : State) : (beginStep c rest s).tick = s.tick := rfl
@[simp] theorem beginStep_rdLo (c : Cmd) (rest : List Cmd) (s : State) : (beginStep c rest s).rdLo = s.rdLo := rfl
@[simp] theorem beginStep_rdHi (c : Cmd) (rest : List Cmd) (s : State) : (beginStep c rest s).rdHi = s.rdHi := rfl
@[simp] theorem beginStep_map (c : Cmd) (rest : List Cmd) (s : State) : (beginStep c rest s).map = s.map := rfl
@[simp] theorem beginStep_diff (c : Cmd) (rest : List Cmd) (s : State) : (beginStep c rest s).diff = s.diff := rfl
@[simp] theorem beginStep_nact (c : Cmd) (rest : List Cmd) (s : State) : (beginStep c rest s).nact = s.nact := rfl
@[simp] theorem beginStep_rstate (c : Cmd) (rest : List Cmd) (s : State) : (beginStep c rest s).rstate = s.rstate := rfl
@[simp] theorem beginStep_pcur (c : Cmd) (rest : List Cmd) (s : State) : (beginStep c rest s).pcur = s.pcur := rfl
@[simp] theorem beginStep_rcur (c : Cmd) (rest : List Cmd) (s : State) : (beginStep c rest s).rcur = s.rcur := rfl
@[simp] theorem beginStep_lights (c : Cmd) (rest : List Cmd) (s : State) : (beginStep c rest s).lights = s.lights := rfl
@[simp] theorem beginStep_outValid (c : Cmd) (rest : List Cmd) (s : State) : (beginStep c rest s).outValid = s.outValid := rfl
@[simp] theorem beginStep_outSuccess (c : Cmd) (rest : List Cmd) (s : State) : (beginStep c rest s).outSuccess = s.outSuccess := rfl
@[simp] theorem beginStep_outCount (c : Cmd) (rest : List Cmd) (s : State) : (beginStep c rest s).outCount = s.outCount := rfl
@[simp] theorem beginStep_score (c : Cmd) (rest : List Cmd) (s : State) : (beginStep c rest s).score = s.score := rfl
@[simp] theorem beginStep_pin (c : Cmd) (rest : List Cmd) (s : State) : (beginStep c rest s).pin = s.pin := rfl
@[simp] theorem beginStep_lane (c : Cmd) (rest : List Cmd) (s : State) : (beginStep c rest s).lane = s.lane := rfl
@[simp] theorem beginStep_ustep (c : Cmd) (rest : List Cmd) (s : State) : (beginStep c rest s).ustep = s.ustep := rfl
@[simp] theorem beginStep_outLatchLo (c : Cmd) (rest : List Cmd) (s : State) : (beginStep c rest s).outLatchLo = s.outLatchLo := rfl
@[simp] theorem beginStep_outLatchHi (c : Cmd) (rest : List Cmd) (s : State) : (beginStep c rest s).outLatchHi = s.outLatchHi := rfl
@[simp] theorem beginStep_sw (c : Cmd) (rest : List Cmd) (s : State) : (beginStep c rest s).sw = c.sw.getD s.sw := rfl
@[simp] theorem beginStep_rand (c : Cmd) (rest : List Cmd) (s : State) : (beginStep c rest s).rand = s.rand := rfl
@[simp] theorem beginStep_randPos (c : Cmd) (rest : List Cmd) (s : State) : (beginStep c rest s).randPos = s.randPos := rfl
@[simp] theorem beginStep_settleLo (c : Cmd) (rest : List Cmd) (s : State) : (beginStep c rest s).settleLo = s.settleLo := rfl
@[simp] theorem beginStep_settleHi (c : Cmd) (rest : List Cmd) (s : State) : (beginStep c rest s).settleHi = s.settleHi := rfl
@[simp] theorem beginStep_events (c : Cmd) (rest : List Cmd) (s : State) : (beginStep c rest s).events = [] := rfl
@[simp] theorem beginStep_trace (c : Cmd) (rest : List Cmd) (s : State) : (beginStep c rest s).trace = [] := rfl
@[simp] theorem beginStep_ret (c : Cmd) (rest : List Cmd) (s : State) : (beginStep c rest s).ret = s.ret := rfl
@[simp] theorem beginStep_freeHi (c : Cmd) (rest : List Cmd) (s : State) : (beginStep c rest s).freeHi = s.freeHi := rfl
@[simp] theorem beginStep_freeCtr (c : Cmd) (rest : List Cmd) (s : State) : (beginStep c rest s).freeCtr = s.freeCtr := rfl
@[simp] theorem beginStep_inbox (c : Cmd) (rest : List Cmd) (s : State) : (beginStep c rest s).inbox = rest := rfl

@[simp] theorem State.withFetchWord_cfg (n w : Nat) (s : State) : (s.withFetchWord n w).cfg = s.cfg := rfl
@[simp] theorem State.withFetchWord_deb (n w : Nat) (s : State) : (s.withFetchWord n w).deb = s.deb := rfl
@[simp] theorem State.withFetchWord_lastRaw (n w : Nat) (s : State) : (s.withFetchWord n w).lastRaw = s.lastRaw := rfl
@[simp] theorem State.withFetchWord_tick (n w : Nat) (s : State) : (s.withFetchWord n w).tick = s.tick := rfl
@[simp] theorem State.withFetchWord_rdLo (n w : Nat) (s : State) : (s.withFetchWord n w).rdLo = s.rdLo := rfl
@[simp] theorem State.withFetchWord_rdHi (n w : Nat) (s : State) : (s.withFetchWord n w).rdHi = s.rdHi := rfl
@[simp] theorem State.withFetchWord_map (n w : Nat) (s : State) : (s.withFetchWord n w).map = s.map := rfl
@[simp] theorem State.withFetchWord_diff (n w : Nat) (s : State) : (s.withFetchWord n w).diff = s.diff := rfl
@[simp] theorem State.withFetchWord_nact (n w : Nat) (s : State) : (s.withFetchWord n w).nact = s.nact := rfl
@[simp] theorem State.withFetchWord_rstate (n w : Nat) (s : State) : (s.withFetchWord n w).rstate = s.rstate := rfl
@[simp] theorem State.withFetchWord_pcur (n w : Nat) (s : State) : (s.withFetchWord n w).pcur = s.pcur := rfl
@[simp] theorem State.withFetchWord_rcur (n w : Nat) (s : State) : (s.withFetchWord n w).rcur = s.rcur := rfl
@[simp] theorem State.withFetchWord_lights (n w : Nat) (s : State) : (s.withFetchWord n w).lights = s.lights := rfl
@[simp] theorem State.withFetchWord_outValid (n w : Nat) (s : State) : (s.withFetchWord n w).outValid = s.outValid := rfl
@[simp] theorem State.withFetchWord_outSuccess (n w : Nat) (s : State) : (s.withFetchWord n w).outSuccess = s.outSuccess := rfl
@[simp] theorem State.withFetchWord_outCount (n w : Nat) (s : State) : (s.withFetchWord n w).outCount = s.outCount := rfl
@[simp] theorem State.withFetchWord_score (n w : Nat) (s : State) : (s.withFetchWord n w).score = s.score := rfl
@[simp] theorem State.withFetchWord_pin (n w : Nat) (s : State) : (s.withFetchWord n w).pin = s.pin := rfl
@[simp] theorem State.withFetchWord_lane (n w : Nat) (s : State) : (s.withFetchWord n w).lane = s.lane := rfl
@[simp] theorem State.withFetchWord_ustep (n w : Nat) (s : State) : (s.withFetchWord n w).ustep = s.ustep := rfl
@[simp] theorem State.withFetchWord_outLatchLo (n w : Nat) (s : State) : (s.withFetchWord n w).outLatchLo = s.outLatchLo := rfl
@[simp] theorem State.withFetchWord_outLatchHi (n w : Nat) (s : State) : (s.withFetchWord n w).outLatchHi = s.outLatchHi := rfl
@[simp] theorem State.withFetchWord_sw (n w : Nat) (s : State) : (s.withFetchWord n w).sw = s.sw := rfl
@[simp] theorem State.withFetchWord_rand (n w : Nat) (s : State) : (s.withFetchWord n w).rand = s.rand := rfl
@[simp] theorem State.withFetchWord_randPos (n w : Nat) (s : State) : (s.withFetchWord n w).randPos = s.randPos := rfl
@[simp] theorem State.withFetchWord_settleLo (n w : Nat) (s : State) : (s.withFetchWord n w).settleLo = s.settleLo := rfl
@[simp] theorem State.withFetchWord_settleHi (n w : Nat) (s : State) : (s.withFetchWord n w).settleHi = s.settleHi := rfl
@[simp] theorem State.withFetchWord_events (n w : Nat) (s : State) : (s.withFetchWord n w).events = s.events := rfl
@[simp] theorem State.withFetchWord_trace (n w : Nat) (s : State) : (s.withFetchWord n w).trace = s.trace := rfl
@[simp] theorem State.withFetchWord_ret (n w : Nat) (s : State) : (s.withFetchWord n w).ret = s.ret := rfl
@[simp] theorem State.withFetchWord_freeHi (n w : Nat) (s : State) : (s.withFetchWord n w).freeHi = s.freeHi := rfl
@[simp] theorem State.withFetchWord_freeCtr (n w : Nat) (s : State) : (s.withFetchWord n w).freeCtr = s.freeCtr := rfl
@[simp] theorem State.withFetchWord_inbox (n w : Nat) (s : State) : (s.withFetchWord n w).inbox = tableCommand n w :: s.inbox := rfl

@[simp] theorem lineUp_cfg (l : List Instr) (s : State) : (lineUp l s).cfg = s.cfg := rfl
@[simp] theorem lineUp_deb (l : List Instr) (s : State) : (lineUp l s).deb = s.deb := rfl
@[simp] theorem lineUp_lastRaw (l : List Instr) (s : State) : (lineUp l s).lastRaw = s.lastRaw := rfl
@[simp] theorem lineUp_tick (l : List Instr) (s : State) : (lineUp l s).tick = s.tick := rfl
@[simp] theorem lineUp_rdLo (l : List Instr) (s : State) : (lineUp l s).rdLo = s.rdLo := rfl
@[simp] theorem lineUp_rdHi (l : List Instr) (s : State) : (lineUp l s).rdHi = s.rdHi := rfl
@[simp] theorem lineUp_map (l : List Instr) (s : State) : (lineUp l s).map = s.map := rfl
@[simp] theorem lineUp_diff (l : List Instr) (s : State) : (lineUp l s).diff = s.diff := rfl
@[simp] theorem lineUp_nact (l : List Instr) (s : State) : (lineUp l s).nact = s.nact := rfl
@[simp] theorem lineUp_rstate (l : List Instr) (s : State) : (lineUp l s).rstate = s.rstate := rfl
@[simp] theorem lineUp_pcur (l : List Instr) (s : State) : (lineUp l s).pcur = s.pcur := rfl
@[simp] theorem lineUp_rcur (l : List Instr) (s : State) : (lineUp l s).rcur = s.rcur := rfl
@[simp] theorem lineUp_lights (l : List Instr) (s : State) : (lineUp l s).lights = s.lights := rfl
@[simp] theorem lineUp_outValid (l : List Instr) (s : State) : (lineUp l s).outValid = s.outValid := rfl
@[simp] theorem lineUp_outSuccess (l : List Instr) (s : State) : (lineUp l s).outSuccess = s.outSuccess := rfl
@[simp] theorem lineUp_outCount (l : List Instr) (s : State) : (lineUp l s).outCount = s.outCount := rfl
@[simp] theorem lineUp_score (l : List Instr) (s : State) : (lineUp l s).score = s.score := rfl
@[simp] theorem lineUp_pin (l : List Instr) (s : State) : (lineUp l s).pin = s.pin := rfl
@[simp] theorem lineUp_lane (l : List Instr) (s : State) : (lineUp l s).lane = s.lane := rfl
@[simp] theorem lineUp_ustep (l : List Instr) (s : State) : (lineUp l s).ustep = s.ustep := rfl
@[simp] theorem lineUp_outLatchLo (l : List Instr) (s : State) : (lineUp l s).outLatchLo = s.outLatchLo := rfl
@[simp] theorem lineUp_outLatchHi (l : List Instr) (s : State) : (lineUp l s).outLatchHi = s.outLatchHi := rfl
@[simp] theorem lineUp_sw (l : List Instr) (s : State) : (lineUp l s).sw = s.sw := rfl
@[simp] theorem lineUp_rand (l : List Instr) (s : State) : (lineUp l s).rand = s.rand := rfl
@[simp] theorem lineUp_randPos (l : List Instr) (s : State) : (lineUp l s).randPos = s.randPos := rfl
@[simp] theorem lineUp_settleLo (l : List Instr) (s : State) : (lineUp l s).settleLo = s.settleLo := rfl
@[simp] theorem lineUp_settleHi (l : List Instr) (s : State) : (lineUp l s).settleHi = s.settleHi := rfl
@[simp] theorem lineUp_events (l : List Instr) (s : State) : (lineUp l s).events = s.events := rfl
@[simp] theorem lineUp_trace (l : List Instr) (s : State) : (lineUp l s).trace = s.trace := rfl
@[simp] theorem lineUp_ret (l : List Instr) (s : State) : (lineUp l s).ret = s.ret := rfl
@[simp] theorem lineUp_freeHi (l : List Instr) (s : State) : (lineUp l s).freeHi = s.freeHi := rfl
@[simp] theorem lineUp_freeCtr (l : List Instr) (s : State) : (lineUp l s).freeCtr = s.freeCtr := rfl
@[simp] theorem lineUp_inbox (l : List Instr) (s : State) : (lineUp l s).inbox = s.inbox ++ l.map commandOf := rfl

end Sys2Proof.Machine
end

