-- ==== Sys2Proof/Laws/Ops.lean ====
section
/-! SUPPORT. What each shared operation can do, said once: sequencing, micro-operations and bus sequences. -/

namespace Sys2Proof.Machine

/-! ### Sequencing -/

@[simp] theorem andThen_next (s : State) (f : State → Res) : andThen (.next s) f = f s := rfl
@[simp] theorem andThen_fault (x : Fault) (f : State → Res) : andThen (.fault x) f = .fault x := rfl
@[simp] theorem andThen_refused (x : Refusal) (f : State → Res) : andThen (.refused x) f = .refused x := rfl

/-- A sequence answers a next state exactly when its first part does and the rest does from there. -/
theorem andThen_eq_next {r : Res} {f : State → Res} {t : State} :
    andThen r f = .next t ↔ ∃ s, r = .next s ∧ f s = .next t := by
  cases r <;> simp

theorem andThen_assoc (r : Res) (f g : State → Res) :
    andThen (andThen r f) g = andThen r (fun s => andThen (f s) g) := by
  cases r <;> rfl

/-! ### The end of a cycle -/

theorem endCycle_next {code : BitVec 4} {data : Byte} {s : State} (h : s.pin.drivers ≤ 1) :
    endCycle code data s = .next (afterCycle code data s) := by
  unfold endCycle
  rw [if_neg (by omega)]
  rfl

theorem endCycle_fault {code : BitVec 4} {data : Byte} {s : State} (h : 2 ≤ s.pin.drivers) :
    endCycle code data s = .fault .busContention := if_pos h

/-- A cycle ends well exactly when at most one drives the bus, and then leaves its marks only. -/
theorem endCycle_eq_next {code : BitVec 4} {data : Byte} {s t : State} :
    endCycle code data s = .next t ↔ s.pin.drivers ≤ 1 ∧ t = afterCycle code data s := by
  by_cases h : s.pin.drivers ≤ 1
  · simp [endCycle_next h, h, eq_comm]
  · simp [endCycle_fault (by omega : 2 ≤ s.pin.drivers), h]

/-! ### Patterns and bytes -/

theorem byteLo_eq (p : Pattern) : byteLo p = ~~~(p.extractLsb' 0 8) := by
  apply BitVec.eq_of_getLsbD_eq
  intro i hi
  have h10 : i < 10 := by omega
  have h16 : i < 16 := by omega
  simp [byteLo, invertedPattern, hi, h10, h16]

theorem byteHi_eq (p : Pattern) : byteHi p = 0b111111#6 ++ ~~~(p.extractLsb' 8 2) := by
  apply BitVec.eq_of_getLsbD_eq
  intro i hi
  have h16 : 8 + i < 16 := by omega
  simp only [byteHi, invertedPattern, BitVec.getLsbD_extractLsb', BitVec.getLsbD_not, BitVec.getLsbD_setWidth,
    BitVec.getLsbD_append, hi, h16]
  by_cases h2 : i < 2
  · simp [h2]
  · have h1 : (0b111111#6).getLsbD (i - 2) = true := by interval_cases i <;> first | omega | rfl
    simp [h1, h2, BitVec.getLsbD_of_ge p (8 + i) (by omega)]

/-- R127, R41: the pressed set of the inverted switch bytes is the switch set, whatever the unused lines show. -/
theorem pressedSet_inverted (top : BitVec 6) (sw : Pattern) :
    pressedSet (top ++ ~~~(sw.extractLsb' 8 2)) (~~~(sw.extractLsb' 0 8)) = sw := by
  apply BitVec.eq_of_getLsbD_eq
  intro i hi
  have hm : (0x03FF#16).getLsbD i = true := by interval_cases i <;> rfl
  simp only [pressedSet, BitVec.getLsbD_setWidth, BitVec.getLsbD_and, BitVec.getLsbD_not, BitVec.getLsbD_append, hm,
    BitVec.getLsbD_extractLsb']
  by_cases h8 : i < 8
  · simp [h8, hi]; intro _; omega
  · have h2 : i - 8 < 2 := by omega
    have h3 : 8 + (i - 8) = i := by omega
    simp [h8, hi, h2, h3]
    omega

/-! ### Sequences, entered with both input latches off the bus -/

theorem drivers_inputsOff {p : PinCtl} (h1 : p.oeLoN = true) (h2 : p.oeHiN = true) : p.drivers ≤ 1 := by
  unfold PinCtl.drivers
  rw [h1, h2]
  cases p.busDir <;> decide

theorem pin_released {p : PinCtl} (hd : p.busDir = false) (h1 : p.oeLoN = true) (h2 : p.oeHiN = true) :
    p = ⟨p.busOut, false, p.stbLo, p.stbHi, true, true⟩ := by
  cases p
  simp_all

/-- BUS_WRITE to the low bank: the latch holds the byte, and the bus is still driven with it (R124). -/
theorem busWriteSeq_lo_next {v : Byte} {s : State} (h : inputsOff s) :
    busWriteSeq .lo v s = .next { s with
      outLatchLo := v
      pin := { s.pin with busOut := v, busDir := true, stbLo := false }
      trace := s.trace ++ [0x1#4 ++ v, 0x300#12]
      ustep := s.ustep + 2 } := by
  obtain ⟨h1, h2⟩ := h
  simp [busWriteSeq, microBusOut, microStbLo, withBus, resolveBus, endCycle, PinCtl.drivers, h1, h2]

theorem busWriteSeq_hi_next {v : Byte} {s : State} (h : inputsOff s) :
    busWriteSeq .hi v s = .next { s with
      outLatchHi := v
      pin := { s.pin with busOut := v, busDir := true, stbHi := false }
      trace := s.trace ++ [0x1#4 ++ v, 0x400#12]
      ustep := s.ustep + 2 } := by
  obtain ⟨h1, h2⟩ := h
  simp [busWriteSeq, microBusOut, microStbHi, withBus, resolveBus, endCycle, PinCtl.drivers, h1, h2]

/-- WRITE_LIGHTS leaves both latches with the pattern's bytes and the bus released; it writes `LIGHTS` not (R126). -/
theorem writeLightsSeq_next {p : Pattern} {s : State} (h : inputsOff s) :
    writeLightsSeq p s = .next { afterLight p s with lights := s.lights } := by
  have h' : inputsOff (restartUstep s) := h
  rw [writeLightsSeq, busWriteSeq_lo_next h', andThen_next, busWriteSeq_hi_next (by exact h), andThen_next]
  obtain ⟨h1, h2⟩ := h
  simp [microBusRel, endCycle, PinCtl.drivers, h1, h2, afterLight, lightsTrace, byteLo_eq, byteHi_eq, restartUstep]

theorem lightOp_next {p : Pattern} {s : State} (h : inputsOff s) : lightOp p s = .next (afterLight p s) := by
  rw [lightOp, writeLightsSeq_next (by exact h)]
  rfl

theorem lightWith_next {base : Pattern} {l : Index} {s : State} (h : inputsOff s) (hl : l.toNat ≤ 9) :
    lightWith base l s = .next (afterLight (base ||| 1#10 <<< l.toNat) s) := by
  simp [lightWith, onehot, hl, lightOp_next h]

/-- The settle wait lets time pass and changes nothing else (R111, R125). -/
theorem nopSeq_next (n : Nat) {s : State} (h : s.pin.drivers ≤ 1) :
    nopSeq n s = .next { s with
      trace := s.trace ++ List.replicate n 0x000#12
      ustep := s.ustep + n
      settleLo := if s.pin.oeLoN then s.settleLo else s.settleLo + n
      settleHi := if s.pin.oeHiN then s.settleHi else s.settleHi + n } := by
  induction n generalizing s with
  | zero => simp [nopSeq]
  | succ n ih =>
    rw [nopSeq, microNop, endCycle_next h, andThen_next, ih (by exact h)]
    cases h1 : s.pin.oeLoN <;> cases h2 : s.pin.oeHiN <;>
      simp [afterCycle, h1, h2, List.replicate_succ, Nat.add_assoc, Nat.add_comm 1]

/-- BUS_READ of the low bank from a bus nobody drives, after a legal settle wait: the byte is the inverted switches,
and the bank is off the bus again (R125). -/
theorem busReadSeq_lo_next {s : State} (h : inputsOff s) (hd : s.pin.busDir = false) (hn : 2 ≤ s.cfg.settleCycles) :
    busReadSeq .lo s = .next { s with
      rdLo := inLo s.sw
      trace := s.trace ++ ([0x500#12] ++ List.replicate s.cfg.settleCycles 0x000#12 ++ [0x900#12, 0x600#12])
      ustep := s.ustep + (3 + s.cfg.settleCycles)
      settleLo := 0 } := by
  obtain ⟨h1, h2⟩ := h
  have hm : max 2 s.cfg.settleCycles = s.cfg.settleCycles := by omega
  have hp := pin_released hd h1 h2
  rw [busReadSeq, microOeLoOn, endCycle_next (by simp [PinCtl.drivers, h2, hd]), andThen_next, andThen_next,
    nopSeq_next _ (by simp [afterCycle, PinCtl.drivers, h2, hd])]
  simp [microSampLo, microOeLoOff, withBus, resolveBus, endCycle, afterCycle, PinCtl.drivers, settleNeed, h2, hd, hm]
  constructor
  · rw [hp]
  · omega

/-- BUS_READ of the high bank, the same; the unused lines show a free value (R125, R41). -/
theorem busReadSeq_hi_next {s : State} (h : inputsOff s) (hd : s.pin.busDir = false) (hn : 2 ≤ s.cfg.settleCycles) :
    busReadSeq .hi s = .next { s with
      rdHi := inHi s.freeHi s.sw
      freeHi := Config.freeHigh s.freeCtr
      freeCtr := s.freeCtr + 1
      trace := s.trace ++ ([0x700#12] ++ List.replicate s.cfg.settleCycles 0x000#12 ++ [0xA00#12, 0x800#12])
      ustep := s.ustep + (3 + s.cfg.settleCycles)
      settleHi := 0 } := by
  obtain ⟨h1, h2⟩ := h
  have hm : max 2 s.cfg.settleCycles = s.cfg.settleCycles := by omega
  have hp := pin_released hd h1 h2
  rw [busReadSeq, microOeHiOn, endCycle_next (by simp [PinCtl.drivers, h1, hd]), andThen_next, andThen_next,
    nopSeq_next _ (by simp [afterCycle, PinCtl.drivers, h1, hd])]
  simp [microSampHi, microOeHiOff, withBus, resolveBus, endCycle, afterCycle, PinCtl.drivers, settleNeed, h1, hd, hm]
  constructor
  · rw [hp]
  · omega

/-- READ_SWITCHES reads the switches through both banks and leaves the bus released (R127). -/
theorem readSwitchesSeq_next {s : State} (h : inputsOff s) (hn : 2 ≤ s.cfg.settleCycles) :
    readSwitchesSeq s = .next { s with
      rdLo := inLo s.sw
      rdHi := inHi s.freeHi s.sw
      freeHi := Config.freeHigh s.freeCtr
      freeCtr := s.freeCtr + 1
      pin := { s.pin with busDir := false }
      trace := s.trace ++ switchesTrace s.cfg.settleCycles
      ustep := 0
      settleLo := 0
      settleHi := 0 } := by
  obtain ⟨h1, h2⟩ := h
  rw [readSwitchesSeq, microBusRel, endCycle_next (by simp [PinCtl.drivers, h1, h2]), andThen_next,
    busReadSeq_lo_next ⟨by simp [afterCycle, h1], by simp [afterCycle, h2]⟩ rfl (by exact hn), andThen_next,
    busReadSeq_hi_next ⟨by simp [afterCycle, h1], by simp [afterCycle, h2]⟩ rfl (by exact hn), andThen_next]
  simp [afterCycle, switchesTrace, restartUstep, h1, h2]

end Sys2Proof.Machine
end

