-- ==== Sys2Proof/Laws/Generate.lean ====
section
/-! SUPPORT. What the mapping generator does, said once: swaps, the shuffle as a function of the words drawn, when an
attempt is the identity (R166), and what holds after GENERATE (R167). -/

namespace Sys2Proof.Machine

/-- Two entries exchanged. -/
def swapMap (m : Vector Index 10) (i j : Nat) : Vector Index 10 :=
  match m[i]?, m[j]? with
  | some a, some b => (m.setIfInBounds i b).setIfInBounds j a
  | _, _ => m

/-- R164, entry by entry. -/
theorem swapMap_get {m : Vector Index 10} {i j : Nat} (hi : i < 10) (hj : j < 10) (k : Nat) (hk : k < 10) :
    (swapMap m i j)[k] = if k = j then m[i] else if k = i then m[j] else m[k] := by
  unfold swapMap
  rw [Vector.getElem?_eq_getElem hi, Vector.getElem?_eq_getElem hj]
  simp only [Vector.getElem_setIfInBounds, eq_comm]

theorem swapEntries_next {i j : Nat} {s : State} (hi : i < 10) (hj : j < 10) :
    swapEntries i j s = .next { s with map := swapMap s.map i j } := by
  unfold swapEntries swapMap
  rw [Vector.getElem?_eq_getElem hi, Vector.getElem?_eq_getElem hj]

/-- An index above 9 is refused (R62). -/
theorem swapEntries_refused {i j : Nat} {s : State} (h : ¬ (i < 10 ∧ j < 10)) :
    swapEntries i j s = .refused .mapIndex := by
  unfold swapEntries
  by_cases hi : i < 10
  · have hj : ¬ j < 10 := fun hj => h ⟨hi, hj⟩
    rw [Vector.getElem?_eq_none (by omega : 10 ≤ j)]
    simp
  · rw [Vector.getElem?_eq_none (by omega : 10 ≤ i)]

/-- The map that the shuffle from index n down leaves. -/
def shuffleMap : Nat → State → Vector Index 10
  | 0, s => s.map
  | i + 1, s =>
    shuffleMap i { takeRand s with map := swapMap s.map (i + 1) (randChoice (i + 2) s) }

/-- The shuffle loop (R163): only `MAP` and the RAND stream change, and one word is taken for each index. -/
theorem shuffle_next {n : Nat} {s : State} (hn : n ≤ 9) :
    shuffle n s = .next { s with map := shuffleMap n s, rand := s.rand.drop n, randPos := s.randPos + n } := by
  induction n generalizing s with
  | zero => simp [shuffle, shuffleMap]
  | succ n ih =>
    have hj : randChoice (n + 2) s < 10 := by
      have := Nat.mod_lt (nextRand s).toNat (by omega : n + 2 > 0)
      simp only [randChoice]
      omega
    rw [shuffle, swapEntries_next (by omega) hj, andThen_next, ih (by omega)]
    simp [shuffleMap, takeRand, Nat.add_assoc, Nat.add_comm 1]

/-- R163: a swap of two entries below n leaves a permutation of the entries below n. -/
theorem PermutesBelow.swap {m : Vector Index 10} {n i j : Nat} (h : PermutesBelow m n) (hn : n ≤ 10) (hi : i < n)
    (hj : j < n) : PermutesBelow (swapMap m i j) n := by
  obtain ⟨h1, h2, h3⟩ := h
  have hi' : i < 10 := by omega
  have hj' : j < 10 := by omega
  have key : ∀ k : Fin 10, k.val < n → ∃ k' : Fin 10, k'.val < n ∧ (swapMap m i j)[k] = m[k'] ∧
      k'.val = (if k.val = j then i else if k.val = i then j else k.val) := by
    intro k hk
    simp only [Fin.getElem_fin]
    rw [swapMap_get hi' hj' k.val k.isLt]
    by_cases e1 : k.val = j
    · exact ⟨⟨i, hi'⟩, hi, by simp [e1], by simp [e1]⟩
    · by_cases e2 : k.val = i
      · refine ⟨⟨j, hj'⟩, hj, ?_, ?_⟩
        · rw [if_neg e1, if_pos e2]
        · rw [if_neg e1, if_pos e2]
      · exact ⟨k, hk, by simp [e1, e2], by simp [e1, e2]⟩
  refine ⟨?_, ?_, ?_⟩
  · intro k hk
    obtain ⟨k', hk', he, -⟩ := key k hk
    rw [he]
    exact h1 k' hk'
  · intro v hv
    obtain ⟨k, hk, he⟩ := h2 v hv
    have hlt : (if k.val = j then i else if k.val = i then j else k.val) < 10 := by split_ifs <;> omega
    refine ⟨⟨if k.val = j then i else if k.val = i then j else k.val, hlt⟩, ?_, ?_⟩
    · show (if k.val = j then i else if k.val = i then j else k.val) < n
      split_ifs <;> omega
    · rw [← he]
      simp only [Fin.getElem_fin]
      rw [swapMap_get hi' hj' _ hlt]
      congr 1
      split_ifs <;> first | omega | simp_all
  · intro a b ha hb hab
    obtain ⟨a', ha', hea, hia⟩ := key a ha
    obtain ⟨b', hb', heb, hib⟩ := key b hb
    have := h3 a' b' ha' hb' (by rw [← hea, ← heb, hab])
    have h4 : a'.val = b'.val := by rw [this]
    rw [hia, hib] at h4
    apply Fin.ext
    split_ifs at h4 <;> omega

theorem randChoice_lt {k : Nat} (hk : 0 < k) (s : State) : randChoice k s < k := Nat.mod_lt _ hk

/-- Entries above the shuffle's first index are not touched (R163). -/
theorem shuffleMap_above {n : Nat} {s : State} (hn : n ≤ 9) (k : Nat) (hk : k < 10) (h : n < k) :
    (shuffleMap n s)[k] = s.map[k] := by
  induction n generalizing s with
  | zero => rfl
  | succ n ih =>
    have hj := randChoice_lt (by omega : 0 < n + 2) s
    rw [shuffleMap, ih (by omega) (by omega)]
    show (swapMap s.map (n + 1) (randChoice (n + 2) s))[k] = s.map[k]
    rw [swapMap_get (by omega) (by omega) k hk, if_neg (by omega), if_neg (by omega)]

/-- The shuffle keeps every permutation of a range that holds its indices (R163). -/
theorem PermutesBelow.shuffleMap {n k : Nat} {s : State} (h : PermutesBelow s.map k) (hk : k ≤ 10) (hn : n < k) :
    PermutesBelow (Machine.shuffleMap n s) k := by
  induction n generalizing s with
  | zero => exact h
  | succ n ih =>
    have hj := randChoice_lt (by omega : 0 < n + 2) s
    exact ih (PermutesBelow.swap h hk (by omega) (by omega)) (by omega)

/-- R166: whether every draw of a shuffle returns its own index. -/
def drawsIdentity : Nat → State → Prop
  | 0, _ => True
  | i + 1, s => randChoice (i + 2) s = i + 1 ∧ drawsIdentity i (takeRand s)

/-- The draws depend on the RAND stream only. -/
theorem drawsIdentity_congr {n : Nat} {s t : State} (h1 : s.rand = t.rand) (h2 : s.randPos = t.randPos) :
    drawsIdentity n s ↔ drawsIdentity n t := by
  induction n generalizing s t with
  | zero => rfl
  | succ n ih =>
    have hw : nextRand s = nextRand t := by unfold nextRand; rw [h1, h2]
    unfold drawsIdentity randChoice
    rw [hw, ih (s := takeRand s) (t := takeRand t) (by simp [h1]) (by simp [h2])]

theorem swapMap_self (m : Vector Index 10) {i : Nat} (hi : i < 10) : swapMap m i i = m := by
  apply Vector.ext
  intro k hk
  rw [swapMap_get hi hi k hk]
  by_cases h : k = i
  · subst h; simp
  · simp [h]

/-- R166: a shuffle of entries that map to themselves leaves them so exactly when every draw returns its own index. -/
theorem shuffleMap_identity_iff {n : Nat} {s : State} (hn : n ≤ 9)
    (hid : ∀ k (hk : k < 10), k ≤ n → (s.map[k]).toNat = k) :
    (∀ k (hk : k < 10), k ≤ n → ((shuffleMap n s)[k]).toNat = k) ↔ drawsIdentity n s := by
  induction n generalizing s with
  | zero => exact ⟨fun _ => trivial, fun _ => hid⟩
  | succ n ih =>
    have hj := randChoice_lt (by omega : 0 < n + 2) s
    have htop : ((shuffleMap (n + 1) s)[n + 1]'(by omega)).toNat = randChoice (n + 2) s := by
      rw [shuffleMap, shuffleMap_above (by omega) _ (by omega) (by omega)]
      show ((swapMap s.map (n + 1) (randChoice (n + 2) s))[n + 1]'(by omega)).toNat = _
      rw [swapMap_get (by omega) (by omega) _ (by omega)]
      by_cases h : n + 1 = randChoice (n + 2) s
      · rw [if_pos h, hid _ (by omega) (by omega)]
        exact h
      · rw [if_neg h, if_pos rfl, hid _ (by omega) (by omega)]
    by_cases hd : randChoice (n + 2) s = n + 1
    · have hm : swapMap s.map (n + 1) (n + 1) = s.map := swapMap_self _ (by omega)
      have hcong : drawsIdentity n { takeRand s with map := s.map } ↔ drawsIdentity n (takeRand s) :=
        drawsIdentity_congr rfl rfl
      have ih' := ih (s := { takeRand s with map := s.map }) (by omega)
        (fun k hk hkn => hid k hk (by omega))
      unfold drawsIdentity
      rw [← hcong, ← ih']
      constructor
      · intro h
        refine ⟨hd, fun k hk hkn => ?_⟩
        have := h k hk (by omega)
        simp only [shuffleMap, hd, hm] at this
        exact this
      · rintro ⟨-, h⟩ k hk hkn
        by_cases e : k = n + 1
        · subst e; rw [htop, hd]
        · simp only [shuffleMap, hd, hm]
          exact h k hk (by omega)
    · unfold drawsIdentity
      constructor
      · intro h
        exact absurd (by rw [← htop]; exact h (n + 1) (by omega) (by omega)) hd
      · rintro ⟨h, -⟩
        exact absurd h hd

/-! ### GENERATE -/

theorem identityMap_get (k : Nat) (hk : k < 10) : (identityMap[k]).toNat = k := by
  interval_cases k <;> rfl

theorem identityMap_permutes {n : Nat} (_hn : n ≤ 10) : PermutesBelow identityMap n := by
  have h := fun k : Fin 10 => identityMap_get k.val k.isLt
  refine ⟨fun i hi => ?_, fun v hv => ⟨v, hv, h v⟩, fun i j _ _ e => ?_⟩
  · have := h i
    simp only [Fin.getElem_fin] at this ⊢
    omega
  · apply Fin.ext
    rw [← h i, ← h j]
    exact congrArg BitVec.toNat e

/-- G_CHECK, as the entries say it (R165). -/
theorem mapIsIdentity_iff {s : State} (h : s.nact.toNat ≤ 10) :
    mapIsIdentity s = true ↔ ∀ k (hk : k < 10), k < s.nact.toNat → (s.map[k]).toNat = k := by
  unfold mapIsIdentity
  rw [List.all_eq_true]
  constructor
  · intro hall k hk hkn
    have := hall k (List.mem_range.mpr hkn)
    rw [Vector.getElem?_eq_getElem hk] at this
    have he : s.map[k] = BitVec.ofNat 4 k := by simpa using this
    rw [he, BitVec.toNat_ofNat, Nat.mod_eq_of_lt (by omega)]
  · intro hall k hk
    rw [List.mem_range] at hk
    have hk10 : k < 10 := by omega
    rw [Vector.getElem?_eq_getElem hk10]
    have : s.map[k] = BitVec.ofNat 4 k := by
      apply BitVec.eq_of_toNat_eq
      rw [hall k hk10 hk, BitVec.toNat_ofNat, Nat.mod_eq_of_lt (by omega)]
    simp [this]

/-- One attempt (R160): `MAP` and the RAND stream change, nothing else. -/
theorem attempt_next {s : State} (h : s.nact.toNat ≤ 10) :
    attempt s = .next { s with
      map := shuffleMap (s.nact.toNat - 1) (initMap s)
      rand := s.rand.drop (s.nact.toNat - 1)
      randPos := s.randPos + (s.nact.toNat - 1) } := by
  rw [attempt, shuffle_next (by omega)]
  rfl

/-- An `NACT` above 10 makes the first swap of an attempt index `MAP` beyond 9 (R62). -/
theorem attempt_refused {s : State} (h : 10 < s.nact.toNat) : attempt s = .refused .mapIndex := by
  unfold attempt
  obtain ⟨n, hn⟩ : ∃ n, s.nact.toNat - 1 = n + 1 := ⟨s.nact.toNat - 2, by omega⟩
  rw [hn, shuffle, swapEntries_refused (by omega), andThen_refused]

/-- What an attempt leaves, but for the identity test (R163, R167 a, b, d). -/
theorem attempt_map {s t : State} (h1 : 1 ≤ s.nact.toNat) (h : attempt s = .next t) :
    s.nact.toNat ≤ 10 ∧ PermutesBelow t.map 10 ∧ PermutesBelow t.map s.nact.toNat ∧
      (∀ i : Fin 10, s.nact.toNat ≤ i.val → (t.map[i]).toNat = i.val) ∧
      t = { s with map := t.map, rand := t.rand, randPos := t.randPos } := by
  by_cases hn : s.nact.toNat ≤ 10
  · rw [attempt_next hn] at h
    obtain rfl := (Host.Outcome.next.inj h).symm
    refine ⟨hn, ?_, ?_, ?_, rfl⟩
    · exact PermutesBelow.shuffleMap (identityMap_permutes (by omega)) (by omega) (by omega)
    · exact PermutesBelow.shuffleMap (identityMap_permutes hn) hn (by omega)
    · intro i hi
      have := shuffleMap_above (n := s.nact.toNat - 1) (s := initMap s) (by omega) i.val i.isLt (by omega)
      simp only [Fin.getElem_fin]
      rw [this]
      exact identityMap_get i.val i.isLt
  · rw [attempt_refused (by omega)] at h
    cases h

/-- Every way GENERATE ends well leaves a legal mapping and changes `MAP` and the RAND stream only (R167). -/
theorem attempts_spec {n : Nat} {s t : State} (h1 : 1 ≤ s.nact.toNat) (h : attempts n s = .next t) :
    s.nact.toNat ≤ 10 ∧ LegalMapping t.map s.nact.toNat ∧
      t = { s with map := t.map, rand := t.rand, randPos := t.randPos } := by
  induction n generalizing s with
  | zero => cases h
  | succ n ih =>
    rw [attempts, andThen_eq_next] at h
    obtain ⟨u, hu, ht⟩ := h
    obtain ⟨hn, p1, p2, p3, hf⟩ := attempt_map h1 hu
    have hnact : u.nact = s.nact := by rw [hf]
    by_cases hid : mapIsIdentity u
    · rw [if_pos hid] at ht
      obtain ⟨q1, q2, q3⟩ := ih (by rw [hnact]; exact h1) ht
      rw [hnact] at q1 q2
      refine ⟨hn, q2, ?_⟩
      rw [q3, hf]
    · rw [if_neg hid] at ht
      obtain rfl := (Host.Outcome.next.inj ht)
      refine ⟨hn, ⟨p1, p2, ?_, p3⟩, hf⟩
      rw [mapIsIdentity_iff (by rw [hnact]; exact hn)] at hid
      push Not at hid
      obtain ⟨k, hk, hkn, hne⟩ := hid
      exact ⟨⟨k, hk⟩, by rw [← hnact]; exact hkn, hne⟩

/-- A first attempt whose draws are not all their own index ends GENERATE (R160, R166). -/
theorem attempts_first {n : Nat} {s : State} (h1 : 1 ≤ s.nact.toNat) (h10 : s.nact.toNat ≤ 10)
    (hd : ¬ drawsIdentity (s.nact.toNat - 1) s) :
    attempts (n + 1) s = .next { s with
      map := shuffleMap (s.nact.toNat - 1) (initMap s)
      rand := s.rand.drop (s.nact.toNat - 1)
      randPos := s.randPos + (s.nact.toNat - 1) } := by
  rw [attempts, attempt_next h10, andThen_next, if_neg]
  rw [mapIsIdentity_iff (by exact h10)]
  intro hall
  apply hd
  rw [← drawsIdentity_congr (s := initMap s) (t := s) rfl rfl,
    ← shuffleMap_identity_iff (by omega) (fun k hk _ => identityMap_get k hk)]
  exact fun k hk hkn => hall k hk (by show k < s.nact.toNat; omega)

/-- An attempt whose draws are all their own index is rejected, and the next one is tried (R160, R166). -/
theorem attempts_rejected {n : Nat} {s : State} (h10 : s.nact.toNat ≤ 10)
    (hd : drawsIdentity (s.nact.toNat - 1) s) :
    attempts (n + 1) s = attempts n { s with
      map := shuffleMap (s.nact.toNat - 1) (initMap s)
      rand := s.rand.drop (s.nact.toNat - 1)
      randPos := s.randPos + (s.nact.toNat - 1) } := by
  rw [attempts, attempt_next h10, andThen_next, if_pos]
  rw [mapIsIdentity_iff (by exact h10)]
  intro k hk hkn
  have := (shuffleMap_identity_iff (n := s.nact.toNat - 1) (s := initMap s) (by omega)
    (fun k hk _ => identityMap_get k hk)).mpr ((drawsIdentity_congr (s := initMap s) (t := s) rfl rfl).mpr hd)
  exact this k hk (by show k ≤ s.nact.toNat - 1; have : k < s.nact.toNat := hkn; omega)

/-- The draws of a shuffle whose words are lined up, word by word: the k-th word is drawn for index n - k. -/
theorem drawsIdentity_iff_words {n : Nat} {s : State} (hl : n ≤ s.rand.length) :
    drawsIdentity n s ↔ ∀ k, k < n → (s.rand.getD k 0#8).toNat % (n + 1 - k) = n - k := by
  induction n generalizing s with
  | zero => simp [drawsIdentity]
  | succ n ih =>
    obtain ⟨w, rest, hr⟩ : ∃ w rest, s.rand = w :: rest := by
      cases h : s.rand with
      | nil => simp [h] at hl
      | cons w rest => exact ⟨w, rest, rfl⟩
    have hrest : (takeRand s).rand = rest := by simp [hr]
    have hw : randChoice (n + 2) s = w.toNat % (n + 2) := by simp [randChoice, nextRand, hr]
    unfold drawsIdentity
    rw [ih (s := takeRand s) (by simp [hr] at hl ⊢; omega), hrest, hw, hr]
    constructor
    · rintro ⟨h0, h⟩ k hk
      cases k with
      | zero => simpa using h0
      | succ k =>
        have := h k (by omega)
        simp only [List.getD_cons_succ]
        rw [show n + 1 + 1 - (k + 1) = n + 1 - k by omega, show n + 1 - (k + 1) = n - k by omega]
        exact this
    · intro h
      refine ⟨by simpa using h 0 (by omega), fun k hk => ?_⟩
      have := h (k + 1) (by omega)
      simp only [List.getD_cons_succ] at this
      rw [show n + 1 + 1 - (k + 1) = n + 1 - k by omega, show n + 1 - (k + 1) = n - k by omega] at this
      exact this

/-! ### The map as the statements write it -/

theorem ownPositions_eq : ownPositions = identityMap := by decide

theorem exchanged_eq {m : Vector Index 10} {i j : Nat} (hi : i < 10) (hj : j < 10) :
    exchanged m i j = swapMap m i j := by
  apply Vector.ext
  intro k hk
  rw [swapMap_get hi hj k hk, exchanged, Vector.getElem_ofFn, Vector.getElem?_eq_getElem hi,
    Vector.getElem?_eq_getElem hj]
  rfl

/-- The shuffle's map is the one the words lined up draw (R160, R162). -/
theorem shuffleMap_eq_drawnMap {n : Nat} {s : State} (hl : n ≤ s.rand.length) (hn : n ≤ 9) :
    shuffleMap n s = drawnMap n s.rand s.map := by
  induction n generalizing s with
  | zero => cases s.rand <;> rfl
  | succ n ih =>
    obtain ⟨w, rest, hr⟩ : ∃ w rest, s.rand = w :: rest := by
      cases h : s.rand with
      | nil => rw [h] at hl; exact absurd hl (by simp)
      | cons w rest => exact ⟨w, rest, rfl⟩
    have hj : w.toNat % (n + 2) < 10 := by
      have := Nat.mod_lt w.toNat (by omega : n + 2 > 0)
      omega
    have hc : randChoice (n + 2) s = w.toNat % (n + 2) := by
      simp only [randChoice, nextRand, hr]
    rw [shuffleMap, hc, ih (by simp only [takeRand, hr, List.tail_cons]; rw [hr] at hl; simpa using hl) (by omega)]
    simp only [takeRand, hr, List.tail_cons, drawnMap, exchanged_eq (by omega : n + 1 < 10) hj]

end Sys2Proof.Machine
end

