-- ==== Sys2Proof/Laws/Poll.lean ====
section
/-! SUPPORT. What a poll does, said once: the lanes as one bitwise update and one list of events (R141 to R148). -/

namespace Sys2Proof.Machine

theorem getLsbD_putBit {v : Pattern} {i j : Nat} {b : Bool} (hi : i < 10) :
    (putBit v i b).getLsbD j = if j = i then b else v.getLsbD j := by
  unfold putBit
  by_cases hj : j < 10
  · by_cases hji : j = i
    · subst hji; cases b <;> simp [hj]
    · cases b <;> simp [hji, hj] <;> omega
  · have hne : j ≠ i := by omega
    rw [if_neg hne, BitVec.getLsbD_of_ge _ _ (by omega), BitVec.getLsbD_of_ge _ _ (by omega)]

/-- `DEB` after the lanes of a list. -/
def lanesDeb (last raw : Pattern) : List Nat → Pattern → Pattern
  | [], deb => deb
  | i :: rest, deb =>
    lanesDeb last raw rest (if laneFires deb last raw i then putBit deb i (raw.getLsbD i) else deb)

/-- The event a lane gives. -/
def laneEvent (raw : Pattern) (ts : Stamp) (i : Nat) : EventRec :=
  { ts := ts, tr := raw.getLsbD i, button := BitVec.ofNat 4 i }

/-- One lane: it fires or only `LANE` advances (R142). -/
theorem debounceLane_eq (raw : Pattern) (i : Nat) (s : State) :
    debounceLane raw i s = { s with
      deb := if laneFires s.deb s.lastRaw raw i then putBit s.deb i (raw.getLsbD i) else s.deb
      events := if laneFires s.deb s.lastRaw raw i then s.events ++ [laneEvent raw s.tick i] else s.events
      lane := s.lane + 1#4 } := by
  unfold debounceLane laneFires emitEvent laneEvent
  dsimp only
  split <;> rfl

theorem laneFires_putBit {deb last raw : Pattern} {i j : Nat} {b : Bool} (hi : i < 10) (h : j ≠ i) :
    laneFires (putBit deb i b) last raw j = laneFires deb last raw j := by
  simp [laneFires, getLsbD_putBit hi, h]

theorem filter_laneFires_putBit {last raw : Pattern} {i : Nat} {b : Bool} (hi : i < 10) (deb : Pattern) {l : List Nat}
    (h : i ∉ l) : l.filter (laneFires (putBit deb i b) last raw) = l.filter (laneFires deb last raw) := by
  apply List.filter_congr
  intro j hj
  exact laneFires_putBit hi (by rintro rfl; exact h hj)

/-- The lanes of a list without repeats are independent (R148): each fires by the levels before the first. -/
theorem scanLanes_eq (raw : Pattern) (l : List Nat) (s : State) (hnd : l.Nodup) (hlt : ∀ i ∈ l, i < 10) :
    scanLanes raw l s = { s with
      deb := lanesDeb s.lastRaw raw l s.deb
      events := s.events ++ (l.filter (laneFires s.deb s.lastRaw raw)).map (laneEvent raw s.tick)
      lane := s.lane + BitVec.ofNat 4 l.length } := by
  induction l generalizing s with
  | nil => simp [scanLanes, lanesDeb]
  | cons i rest ih =>
    rw [List.nodup_cons] at hnd
    have hi : i < 10 := hlt i (by simp)
    rw [scanLanes, ih _ hnd.2 (fun j hj => hlt j (by simp [hj])), debounceLane_eq]
    have hl : s.lane + 1#4 + BitVec.ofNat 4 rest.length = s.lane + BitVec.ofNat 4 (rest.length + 1) := by
      rw [BitVec.add_assoc, ← BitVec.ofNat_add, Nat.add_comm]
    by_cases hf : laneFires s.deb s.lastRaw raw i
    · simp [lanesDeb, hf, hl, filter_laneFires_putBit hi _ hnd.1]
    · simp [lanesDeb, hf, hl]

/-- A lane of the list takes the level that fired; the others keep theirs. -/
theorem getLsbD_lanesDeb (last raw : Pattern) (l : List Nat) (deb : Pattern) (j : Nat) (hlt : ∀ i ∈ l, i < 10)
    (hnd : l.Nodup) :
    (lanesDeb last raw l deb).getLsbD j =
      if j ∈ l ∧ laneFires deb last raw j then raw.getLsbD j else deb.getLsbD j := by
  induction l generalizing deb with
  | nil => simp [lanesDeb]
  | cons i rest ih =>
    rw [List.nodup_cons] at hnd
    have hi : i < 10 := hlt i (by simp)
    rw [lanesDeb, ih _ (fun j hj => hlt j (by simp [hj])) hnd.2]
    by_cases hji : j = i
    · subst hji
      by_cases hf : laneFires deb last raw j <;> simp [hf, hnd.1, getLsbD_putBit hi]
    · by_cases hf : laneFires deb last raw i
      · simp [hf, hji, laneFires_putBit hi hji, getLsbD_putBit hi]
      · simp [hf, hji]

theorem getLsbD_debounced (deb last raw : Pattern) (j : Nat) (hj : j < 10) :
    (debounced deb last raw).getLsbD j =
      if raw.getLsbD j = last.getLsbD j then raw.getLsbD j else deb.getLsbD j := by
  simp only [debounced, BitVec.getLsbD_or, BitVec.getLsbD_and, BitVec.getLsbD_not, BitVec.getLsbD_xor, hj]
  cases raw.getLsbD j <;> cases last.getLsbD j <;> cases deb.getLsbD j <;> rfl

theorem lanesDeb_allLanes (deb last raw : Pattern) : lanesDeb last raw allLanes deb = debounced deb last raw := by
  apply BitVec.eq_of_getLsbD_eq
  intro j hj
  have hm : j ∈ allLanes := by
    unfold allLanes
    interval_cases j <;> decide
  rw [getLsbD_lanesDeb _ _ _ _ _ (by decide) (by decide), getLsbD_debounced _ _ _ _ hj]
  simp only [hm, true_and, laneFires]
  cases raw.getLsbD j <;> cases last.getLsbD j <;> cases deb.getLsbD j <;> rfl

/-- The rest of SAMPLE after the read, as one update (R141). -/
theorem pollSet_eq (raw : Pattern) (s : State) :
    pollSet raw s = { s with
      deb := debounced s.deb s.lastRaw raw
      lastRaw := raw
      tick := s.tick + 1#32
      events := pollEvents s.deb s.lastRaw raw s.tick
      lane := 0#4 } := by
  unfold pollSet
  rw [scanLanes_eq _ _ _ (by decide) (by decide)]
  simp only [lanesDeb_allLanes]
  rfl

/-- SAMPLE, from a state whose input latches are off the bus, with a legal settle count (R141). -/
theorem sampleOp_next {s : State} (h : inputsOff s) (hn : 2 ≤ s.cfg.settleCycles) :
    sampleOp s = .next (afterPoll s.freeHi (Config.freeHigh s.freeCtr) (s.freeCtr + 1) s) := by
  rw [sampleOp, readSwitchesSeq_next h hn, andThen_next, pollSet_eq]
  simp only [switchSet, inHi, inLo, pressedSet_inverted]
  rfl

end Sys2Proof.Machine
end

