-- ==== Sys2Proof/Laws/Frame.lean ====
section
/-! SUPPORT. What pin activity leaves alone, said once, and a way to carry a relation through a sequence. -/

namespace Sys2Proof.Machine

/-! ### Relations carried through sequences -/

/-- Whenever the operation answers a next state, that state stands in the relation to the one before. -/
def Keeps (R : State → State → Prop) (f : State → Res) : Prop := ∀ s t, f s = .next t → R s t

theorem Keeps.andThen {R : State → State → Prop} (tr : ∀ a b c, R a b → R b c → R a c) {f g : State → Res}
    (hf : Keeps R f) (hg : Keeps R g) : Keeps R fun s => Machine.andThen (f s) g := by
  intro s t h
  obtain ⟨u, hu, ht⟩ := andThen_eq_next.mp h
  exact tr s u t (hf s u hu) (hg u t ht)

theorem Keeps.mono {R Q : State → State → Prop} {f : State → Res} (h : Keeps R f) (hi : ∀ s t, R s t → Q s t) :
    Keeps Q f := fun s t e => hi s t (h s t e)

/-! ### Taking the bus's value -/

/-- Whatever is on the bus, the operation that takes it goes on with some byte, and with a state that differs in the
model's free-value fields only. -/
theorem withBus_eq {s : State} {f : Byte → State → Res} (h : s.pin.drivers ≤ 1) :
    ∃ b fh fc, busShows s b ∧ withBus s f = f b { s with freeHi := fh, freeCtr := fc } := by
  have hm : ∀ c : Config, settleNeed c = max 2 c.settleCycles := fun _ => rfl
  unfold withBus resolveBus busShows
  cases h1 : s.pin.busDir <;> cases h2 : s.pin.oeLoN <;> cases h3 : s.pin.oeHiN <;>
    simp only [PinCtl.drivers, h1, h2, h3] at h ⊢ <;> try (exfalso; revert h; decide)
  · by_cases hs : settleNeed s.cfg ≤ s.settleLo
    · exact ⟨inLo s.sw, s.freeHi, s.freeCtr, by simp [inLo], by simp only [hs]; rfl⟩
    · exact ⟨_, _, _, by simp [← hm, hs], by simp only [hs]; rfl⟩
  · by_cases hs : settleNeed s.cfg ≤ s.settleHi
    · refine ⟨inHi s.freeHi s.sw, _, _, ?_, by simp only [hs]; rfl⟩
      simp only [reduceCtorEq, false_implies, forall_const, true_and]
      intro _
      apply BitVec.eq_of_getLsbD_eq
      intro i hi
      rw [BitVec.getLsbD_extractLsb', Nat.zero_add, inHi, BitVec.getLsbD_append, if_pos hi]
      simp [hi]
    · exact ⟨_, _, _, by simp [← hm, hs], by simp only [hs]; rfl⟩
  · exact ⟨Config.freeByte s.freeCtr, s.freeHi, s.freeCtr + 1, by simp, rfl⟩
  · exact ⟨s.pin.busOut, s.freeHi, s.freeCtr, by simp, rfl⟩

/-- With two drivers the bus has no value (R36). -/
theorem withBus_fault {s : State} {f : Byte → State → Res} (h : 2 ≤ s.pin.drivers) :
    withBus s f = .fault .busContention := by
  unfold withBus resolveBus
  rw [if_pos h]

/-! ### Pin activity -/

/-- A state without what pin activity changes: `RD`, the pins, the output latches, the settle counts, the trace,
`USTEP` and the model's free-value fields. -/
def offPins (s : State) : State :=
  { s with
    rdLo := 0, rdHi := 0, pin := State.reset.pin, outLatchLo := 0, outLatchHi := 0, settleLo := 0, settleHi := 0
    trace := [], ustep := 0, freeHi := 0, freeCtr := 0 }

/-- The two states differ in what pin activity changes only. -/
def PinsOnly (s t : State) : Prop := offPins t = offPins s

theorem PinsOnly.refl (s : State) : PinsOnly s s := rfl
theorem PinsOnly.trans {s t u : State} (h1 : PinsOnly s t) (h2 : PinsOnly t u) : PinsOnly s u :=
  Eq.trans h2 h1

/-- A state that differs in the pins only, with those of the other put in, is the other. -/
theorem PinsOnly.eq {s t : State} (h : PinsOnly s t) : t = { s with
    rdLo := t.rdLo, rdHi := t.rdHi, pin := t.pin, outLatchLo := t.outLatchLo, outLatchHi := t.outLatchHi
    settleLo := t.settleLo, settleHi := t.settleHi, trace := t.trace, ustep := t.ustep, freeHi := t.freeHi
    freeCtr := t.freeCtr } := by
  cases s
  cases t
  simp only [PinsOnly, offPins, State.mk.injEq] at h ⊢
  simp [h]

/-- The two output latches are as before. -/
def SameLatches (s t : State) : Prop := t.outLatchLo = s.outLatchLo ∧ t.outLatchHi = s.outLatchHi

theorem SameLatches.trans {s t u : State} (h1 : SameLatches s t) (h2 : SameLatches t u) : SameLatches s u :=
  ⟨Eq.trans h2.1 h1.1, Eq.trans h2.2 h1.2⟩

/-- Pin activity that strobes no output latch. -/
def ReadOnly (s t : State) : Prop := PinsOnly s t ∧ SameLatches s t

theorem ReadOnly.trans {s t u : State} (h1 : ReadOnly s t) (h2 : ReadOnly t u) : ReadOnly s u :=
  ⟨PinsOnly.trans h1.1 h2.1, SameLatches.trans h1.2 h2.2⟩

/-- What every micro-operation leaves when it ends well: one driver at most, strobes idle if they were (R34, R36). -/
def PinsSound (s : State) : Prop := s.pin.drivers ≤ 1 ∧ s.pin.stbLo = false ∧ s.pin.stbHi = false

theorem endCycle_readOnly (code : BitVec 4) (data : Byte) : Keeps ReadOnly (endCycle code data) := by
  intro s t h
  obtain ⟨-, rfl⟩ := endCycle_eq_next.mp h
  exact ⟨rfl, rfl, rfl⟩

/-- A cycle that ends well ends with one driver at most. -/
theorem endCycle_drivers {code : BitVec 4} {data : Byte} {s t : State} (h : endCycle code data s = .next t) :
    t.pin = s.pin ∧ t.pin.drivers ≤ 1 := by
  obtain ⟨hd, rfl⟩ := endCycle_eq_next.mp h
  exact ⟨rfl, hd⟩

/-- An operation that takes the bus's value and then ends its cycle. -/
theorem withBus_cases {s t : State} {f : Byte → State → Res} (h : withBus s f = .next t) :
    s.pin.drivers ≤ 1 ∧ ∃ b fh fc, busShows s b ∧ f b { s with freeHi := fh, freeCtr := fc } = .next t := by
  by_cases hd : s.pin.drivers ≤ 1
  · obtain ⟨b, fh, fc, hb, he⟩ := withBus_eq (f := f) hd
    exact ⟨hd, b, fh, fc, hb, by rw [← he, h]⟩
  · rw [withBus_fault (by omega)] at h
    cases h

theorem ReadOnly.refl (s : State) : ReadOnly s s := ⟨rfl, rfl, rfl⟩

/-- A micro-operation that changes pins or `RD` and then ends its cycle. -/
theorem ReadOnly.endCycle {s u t : State} {code : BitVec 4} {data : Byte}
    (h : Machine.endCycle code data u = .next t) (hu : ReadOnly s u) : ReadOnly s t :=
  hu.trans (endCycle_readOnly code data u t h)

theorem microNop_readOnly : Keeps ReadOnly microNop := endCycle_readOnly _ _

theorem microBusRel_readOnly : Keeps ReadOnly microBusRel :=
  fun s _ h => ReadOnly.endCycle h (s := s) (by exact ⟨rfl, rfl, rfl⟩)

theorem microBusOut_readOnly (d : Byte) : Keeps ReadOnly (microBusOut d) :=
  fun s _ h => ReadOnly.endCycle h (s := s) (by exact ⟨rfl, rfl, rfl⟩)

theorem microOeLoOff_readOnly : Keeps ReadOnly microOeLoOff :=
  fun s _ h => ReadOnly.endCycle h (s := s) (by exact ⟨rfl, rfl, rfl⟩)

theorem microOeHiOff_readOnly : Keeps ReadOnly microOeHiOff :=
  fun s _ h => ReadOnly.endCycle h (s := s) (by exact ⟨rfl, rfl, rfl⟩)

theorem microOeLoOn_readOnly : Keeps ReadOnly microOeLoOn := by
  intro s t h
  obtain ⟨u, hu, ht⟩ := andThen_eq_next.mp h
  cases ht
  have hr := ReadOnly.endCycle hu (s := s) (by exact ⟨rfl, rfl, rfl⟩)
  exact hr.trans ⟨rfl, rfl, rfl⟩

theorem microOeHiOn_readOnly : Keeps ReadOnly microOeHiOn := by
  intro s t h
  obtain ⟨u, hu, ht⟩ := andThen_eq_next.mp h
  cases ht
  have hr := ReadOnly.endCycle hu (s := s) (by exact ⟨rfl, rfl, rfl⟩)
  exact hr.trans ⟨rfl, rfl, rfl⟩

theorem microSampLo_readOnly : Keeps ReadOnly microSampLo := by
  intro s t h
  obtain ⟨-, b, fh, fc, -, hf⟩ := withBus_cases h
  exact ReadOnly.endCycle hf (s := s) (by exact ⟨rfl, rfl, rfl⟩)

theorem microSampHi_readOnly : Keeps ReadOnly microSampHi := by
  intro s t h
  obtain ⟨-, b, fh, fc, -, hf⟩ := withBus_cases h
  exact ReadOnly.endCycle hf (s := s) (by exact ⟨rfl, rfl, rfl⟩)

theorem microStbLo_pinsOnly : Keeps PinsOnly microStbLo := by
  intro s t h
  obtain ⟨-, b, fh, fc, -, hf⟩ := withBus_cases h
  have hr := (endCycle_readOnly _ _ _ _ hf).1
  exact PinsOnly.trans (s := s) rfl hr

theorem microStbHi_pinsOnly : Keeps PinsOnly microStbHi := by
  intro s t h
  obtain ⟨-, b, fh, fc, -, hf⟩ := withBus_cases h
  have hr := (endCycle_readOnly _ _ _ _ hf).1
  exact PinsOnly.trans (s := s) rfl hr

theorem busWriteSeq_pinsOnly (bank : Bank) (v : Byte) : Keeps PinsOnly (busWriteSeq bank v) := by
  have h : Keeps PinsOnly (microBusOut v) := (microBusOut_readOnly v).mono fun _ _ h => h.1
  cases bank
  · exact h.andThen (fun a b c => @PinsOnly.trans a b c) microStbLo_pinsOnly
  · exact h.andThen (fun a b c => @PinsOnly.trans a b c) microStbHi_pinsOnly

theorem nopSeq_readOnly (n : Nat) : Keeps ReadOnly (nopSeq n) := by
  induction n with
  | zero => intro s t h; cases h; exact ReadOnly.refl s
  | succ n ih => exact microNop_readOnly.andThen (fun a b c => @ReadOnly.trans a b c) ih

theorem busReadSeq_readOnly (bank : Bank) : Keeps ReadOnly (busReadSeq bank) := by
  intro s t h
  have tr := fun a b c => @ReadOnly.trans a b c
  cases bank
  · exact (((microOeLoOn_readOnly.andThen tr (nopSeq_readOnly s.cfg.settleCycles)).andThen tr
      microSampLo_readOnly).andThen tr microOeLoOff_readOnly) s t h
  · exact (((microOeHiOn_readOnly.andThen tr (nopSeq_readOnly s.cfg.settleCycles)).andThen tr
      microSampHi_readOnly).andThen tr microOeHiOff_readOnly) s t h

theorem restartUstep_readOnly : Keeps ReadOnly fun s => .next (restartUstep s) := by
  intro s t h
  cases h
  exact ⟨rfl, rfl, rfl⟩

theorem writeLightsSeq_pinsOnly (p : Pattern) : Keeps PinsOnly (writeLightsSeq p) := by
  intro s t h
  have tr := fun a b c => @PinsOnly.trans a b c
  have hr : Keeps PinsOnly microBusRel := microBusRel_readOnly.mono fun _ _ h => h.1
  have hu : Keeps PinsOnly fun s => .next (restartUstep s) := restartUstep_readOnly.mono fun _ _ h => h.1
  exact PinsOnly.trans (t := restartUstep s) rfl
    (((((busWriteSeq_pinsOnly .lo (byteLo p)).andThen tr (busWriteSeq_pinsOnly .hi (byteHi p))).andThen tr
      hr).andThen tr hu) _ t h)

theorem readSwitchesSeq_readOnly : Keeps ReadOnly readSwitchesSeq := by
  intro s t h
  have tr := fun a b c => @ReadOnly.trans a b c
  have h0 : ReadOnly s (restartUstep s) := ⟨rfl, rfl, rfl⟩
  exact h0.trans
    ((((microBusRel_readOnly.andThen tr (busReadSeq_readOnly .lo)).andThen tr (busReadSeq_readOnly .hi)).andThen tr
      restartUstep_readOnly) _ t h)

/-! ### The signaling layer at a neutral bus, for any settle count -/

/-- A bank read from a bus nobody drives ends well, whatever the settle count, with the bank off the bus again. -/
theorem busReadSeq_any (bank : Bank) {s : State} (h : inputsOff s) (hd : s.pin.busDir = false) :
    ∃ t, busReadSeq bank s = .next t ∧ ReadOnly s t ∧ t.pin = s.pin := by
  obtain ⟨h1, h2⟩ := h
  have hp := pin_released hd h1 h2
  suffices ∃ t, busReadSeq bank s = .next t ∧ t.pin = s.pin by
    obtain ⟨t, ht, hpin⟩ := this
    exact ⟨t, ht, busReadSeq_readOnly bank s t ht, hpin⟩
  cases bank
  · rw [busReadSeq, microOeLoOn, endCycle_next (by simp [PinCtl.drivers, h2, hd]), andThen_next, andThen_next,
      nopSeq_next _ (by simp [afterCycle, PinCtl.drivers, h2, hd]), andThen_next, microSampLo]
    obtain ⟨b, fh, fc, -, he⟩ := withBus_eq (s := { { afterCycle 0x5#4 0x00#8 { s with
      pin := { s.pin with oeLoN := false } } with settleLo := 0 } with
        trace := s.trace ++ [0x5#4 ++ 0x00#8] ++ List.replicate s.cfg.settleCycles 0x000#12
        ustep := s.ustep + 1 + s.cfg.settleCycles
        settleLo := 0 + s.cfg.settleCycles })
      (f := fun b t => endCycle 0x9#4 0x00#8 { t with rdLo := b }) (by simp [afterCycle, PinCtl.drivers, h2, hd])
    simp only [afterCycle, h2] at he ⊢
    simp only [Bool.false_eq_true, ↓reduceIte] at he ⊢
    rw [he, endCycle_next (by simp [PinCtl.drivers, hd]), andThen_next, microOeLoOff,
      endCycle_next (by simp [afterCycle, PinCtl.drivers, hd])]
    refine ⟨_, rfl, ?_⟩
    simp only [afterCycle]
    rw [hp]
  · rw [busReadSeq, microOeHiOn, endCycle_next (by simp [PinCtl.drivers, h1, hd]), andThen_next, andThen_next,
      nopSeq_next _ (by simp [afterCycle, PinCtl.drivers, h1, hd]), andThen_next, microSampHi]
    obtain ⟨b, fh, fc, -, he⟩ := withBus_eq (s := { { afterCycle 0x7#4 0x00#8 { s with
      pin := { s.pin with oeHiN := false } } with settleHi := 0 } with
        trace := s.trace ++ [0x7#4 ++ 0x00#8] ++ List.replicate s.cfg.settleCycles 0x000#12
        ustep := s.ustep + 1 + s.cfg.settleCycles
        settleHi := 0 + s.cfg.settleCycles })
      (f := fun b t => endCycle 0xA#4 0x00#8 { t with rdHi := b }) (by simp [afterCycle, PinCtl.drivers, h1, hd])
    simp only [afterCycle, h1] at he ⊢
    simp only [Bool.false_eq_true, ↓reduceIte] at he ⊢
    rw [he, endCycle_next (by simp [PinCtl.drivers, hd]), andThen_next, microOeHiOff,
      endCycle_next (by simp [afterCycle, PinCtl.drivers, hd])]
    refine ⟨_, rfl, ?_⟩
    simp only [afterCycle]
    rw [hp]

/-- READ_SWITCHES with both input latches off ends well, whatever the settle count, with the bus released. -/
theorem readSwitchesSeq_any {s : State} (h : inputsOff s) :
    ∃ t, readSwitchesSeq s = .next t ∧ ReadOnly s t ∧ t.pin = { s.pin with busDir := false } ∧ t.ustep = 0 := by
  obtain ⟨h1, h2⟩ := h
  suffices ∃ t, readSwitchesSeq s = .next t ∧ t.pin = { s.pin with busDir := false } ∧ t.ustep = 0 by
    obtain ⟨t, ht, hpin⟩ := this
    exact ⟨t, ht, readSwitchesSeq_readOnly s t ht, hpin⟩
  rw [readSwitchesSeq, microBusRel, endCycle_next (by simp [PinCtl.drivers, h1, h2]), andThen_next]
  obtain ⟨t, ht, -, hpt⟩ := busReadSeq_any .lo (s := afterCycle 0x2#4 0x00#8 { restartUstep s with
    pin := { (restartUstep s).pin with busDir := false } }) ⟨h1, h2⟩ rfl
  obtain ⟨u, hu, -, hpu⟩ := busReadSeq_any .hi (s := t) ⟨by rw [hpt]; exact h1, by rw [hpt]; exact h2⟩ (by rw [hpt]; rfl)
  rw [ht, andThen_next, hu, andThen_next]
  exact ⟨_, rfl, hpu.trans hpt, rfl⟩

/-- SAMPLE with both input latches off ends well, whatever the settle count: it writes the sampler's registers, counts
the poll, leaves the bus released, and its events name buttons of the board. -/
theorem sampleOp_any {s : State} (h : inputsOff s) :
    ∃ (r : Pattern) (t : State), sampleOp s = .next t ∧ SameLatches s t ∧
      PinsOnly { s with
        deb := debounced s.deb s.lastRaw r, lastRaw := r, tick := s.tick + 1#32
        events := pollEvents s.deb s.lastRaw r s.tick, lane := 0#4 } t ∧
      t.pin = { s.pin with busDir := false } ∧ t.ustep = 0 := by
  obtain ⟨u, hu, ⟨hp, hl⟩, hpin, hus⟩ := readSwitchesSeq_any h
  rw [sampleOp, hu, andThen_next, pollSet_eq]
  have hd : u.deb = s.deb := by rw [PinsOnly.eq hp]
  have hr : u.lastRaw = s.lastRaw := by rw [PinsOnly.eq hp]
  have ht : u.tick = s.tick := by rw [PinsOnly.eq hp]
  refine ⟨switchSet u, _, rfl, hl, ?_, hpin, hus⟩
  rw [hd, hr, ht]
  unfold PinsOnly offPins at hp ⊢
  cases s
  cases u
  simp only [State.mk.injEq] at hp ⊢
  simp [hp]

/-- The events of a poll name buttons of the board and carry the poll count (R143, R144). -/
theorem mem_pollEvents {deb last raw : Pattern} {ts : Stamp} {e : EventRec} (h : e ∈ pollEvents deb last raw ts) :
    e.button.toNat ≤ 9 ∧ e.ts = ts ∧ e.tr = raw.getLsbD e.button.toNat ∧ laneFires deb last raw e.button.toNat := by
  unfold pollEvents at h
  obtain ⟨i, hi, rfl⟩ := List.mem_map.mp h
  obtain ⟨hr, hf⟩ := List.mem_filter.mp hi
  have h10 : i < 10 := List.mem_range.mp hr
  have : i % 16 = i := by omega
  simp only [BitVec.toNat_ofNat, Nat.reducePow, this]
  exact ⟨by omega, trivial, trivial, hf⟩

end Sys2Proof.Machine
end

