-- ==== Sys2Proof/Laws/Controller.lean ====
section
/-! SUPPORT. What the controller's shared operations can do, said once: the automatic loop, the selection of an event
operation, and relations carried through DISPATCH and the event loop. -/

namespace Sys2Proof.Machine

/-! ### The automatic loop (R196) -/

theorem autoLoop_quiet {n : Nat} {s : State} (h : selectAuto (autoKey s) = none) (hr : s.rstate.toNat ≤ 4) :
    autoLoop n s = .next s := by
  cases n with
  | zero => rfl
  | succ n =>
    rw [autoLoop, h]
    exact if_neg (by omega)

theorem autoLoop_performs {n : Nat} {s : State} {op : AutoOp} (h : selectAuto (autoKey s) = some op) :
    autoLoop (n + 1) s = andThen (performAuto op s) (autoLoop n) := by
  rw [autoLoop, h]

theorem fullBit_preview {s : State} (h : s.rstate = stPreview) : fullBit s = decide (s.pcur = s.nact) := by
  unfold fullBit
  rw [if_pos h]
  rfl

theorem fullBit_recall {s : State} (h : s.rstate = stRecall) : fullBit s = decide (s.rcur = s.nact) := by
  unfold fullBit
  rw [if_neg (by rw [h]; decide), if_pos h]
  rfl

theorem fullBit_other {s : State} (h : s.rstate ≠ stPreview) (h' : s.rstate ≠ stRecall) : fullBit s = false := by
  unfold fullBit
  rw [if_neg h, if_neg h']

theorem selectAuto_idle {s : State} (h : s.rstate = stIdle) : selectAuto (autoKey s) = none := by
  rw [autoKey, fullBit_other (by rw [h]; decide) (by rw [h]; decide), h]
  decide

theorem selectAuto_preview {s : State} (h : s.rstate = stPreview) :
    selectAuto (autoKey s) = if s.pcur = s.nact then some .pvDone else none := by
  rw [autoKey, fullBit_preview h, h]
  by_cases e : s.pcur = s.nact <;> simp only [e, ↓reduceIte] <;> decide

theorem selectAuto_recall {s : State} (h : s.rstate = stRecall) :
    selectAuto (autoKey s) = if s.rcur = s.nact then some .rcDone else none := by
  rw [autoKey, fullBit_recall h, h]
  by_cases e : s.rcur = s.nact <;> simp only [e, ↓reduceIte] <;> decide

theorem selectAuto_success {s : State} (h : s.rstate = stSuccess) : selectAuto (autoKey s) = some .reportSuccess := by
  rw [autoKey, fullBit_other (by rw [h]; decide) (by rw [h]; decide), h]
  decide

theorem selectAuto_failure {s : State} (h : s.rstate = stFailure) : selectAuto (autoKey s) = some .reportFailure := by
  rw [autoKey, fullBit_other (by rw [h]; decide) (by rw [h]; decide), h]
  decide

/-- R86: in a state with a reserved code no automatic operation is selected. -/
theorem selectAuto_reserved {s : State} (h : 5 ≤ s.rstate.toNat) : selectAuto (autoKey s) = none := by
  rw [autoKey, fullBit_other (by intro e; rw [e] at h; revert h; decide) (by intro e; rw [e] at h; revert h; decide)]
  generalize s.rstate = r at h
  revert r
  decide

theorem autoOp_idle {s : State} (h : s.rstate = stIdle) : autoOp s = .next s :=
  autoLoop_quiet (selectAuto_idle h) (by rw [h]; decide)

theorem autoOp_preview {s : State} (h : s.rstate = stPreview) (hc : s.pcur ≠ s.nact) : autoOp s = .next s :=
  autoLoop_quiet (by rw [selectAuto_preview h, if_neg hc]) (by rw [h]; decide)

theorem autoOp_recall {s : State} (h : s.rstate = stRecall) (hc : s.rcur ≠ s.nact) : autoOp s = .next s :=
  autoLoop_quiet (by rw [selectAuto_recall h, if_neg hc]) (by rw [h]; decide)

/-- SUCCESS is left at once, through the end of the round (R194, R196). -/
theorem autoLoop_success {n : Nat} {s : State} (h : s.rstate = stSuccess) :
    autoLoop (n + 1) s = .next (endRound true s.nact s) := by
  rw [autoLoop_performs (selectAuto_success h)]
  exact autoLoop_quiet (selectAuto_idle rfl) (show (0#3).toNat ≤ 4 by decide)

/-- FAILURE is left at once, through the end of the round (R195, R196). -/
theorem autoLoop_failure {n : Nat} {s : State} (h : s.rstate = stFailure) :
    autoLoop (n + 1) s = .next (endRound false s.rcur s) := by
  rw [autoLoop_performs (selectAuto_failure h)]
  exact autoLoop_quiet (selectAuto_idle rfl) (show (0#3).toNat ≤ 4 by decide)

/-- A full RECALL ends the round with Success (R193, R194, R196). -/
theorem autoLoop_recallDone {n : Nat} {s : State} (h : s.rstate = stRecall) (hc : s.rcur = s.nact) :
    autoLoop (n + 2) s = .next (endRound true s.nact s) := by
  rw [autoLoop_performs (op := .rcDone) (by rw [selectAuto_recall h, if_pos hc])]
  exact autoLoop_success (s := { s with rstate := stSuccess }) rfl

/-- A full PREVIEW goes to RECALL (R189, R196). -/
theorem autoOp_previewDone {s : State} (hi : inputsOff s) (h : s.rstate = stPreview) (hc : s.pcur = s.nact)
    (hn : s.nact ≠ 0#4) :
    autoOp s = .next { afterLight 0x000#10 s with rstate := stRecall, rcur := 0#4 } := by
  rw [autoOp, autoLoop_performs (op := .pvDone) (by rw [selectAuto_preview h, if_pos hc]), performAuto, execPvDone,
    lightOp_next (by exact hi), andThen_next, andThen_next]
  have hs : selectAuto (autoKey { afterLight 0x000#10 { s with rstate := stRecall } with rcur := 0#4 }) = none := by
    rw [selectAuto_recall rfl]
    exact if_neg (fun e => hn e.symm)
  rw [autoLoop_quiet hs (show (2#3).toNat ≤ 4 by decide)]
  rfl

/-- With no active position a full PREVIEW runs on to the end of the round. -/
theorem autoOp_previewDone_zero {s : State} (hi : inputsOff s) (h : s.rstate = stPreview) (hc : s.pcur = s.nact)
    (hn : s.nact = 0#4) :
    autoOp s = .next (endRound true s.nact { afterLight 0x000#10 s with rstate := stRecall, rcur := 0#4 }) := by
  rw [autoOp, autoLoop_performs (op := .pvDone) (by rw [selectAuto_preview h, if_pos hc]), performAuto, execPvDone,
    lightOp_next (by exact hi), andThen_next, andThen_next]
  exact autoLoop_recallDone (n := 1) (s := { afterLight 0x000#10 { s with rstate := stRecall } with rcur := 0#4 }) rfl
    hn.symm

/-! ### The selection of an event operation (R85) -/

theorem selectEvent_idle (e : EventRec) {s : State} (h : s.rstate = stIdle) (hit : Bool) :
    selectEvent (eventKey s e hit) = some .drop := by
  unfold eventKey
  rw [h]
  cases e.tr <;> cases hit <;> rfl

theorem selectEvent_preview (e : EventRec) {s : State} (h : s.rstate = stPreview) (hit : Bool) :
    selectEvent (eventKey s e hit) =
      some (if !e.tr then .pvRelease else if hit then .pvAdvance else .pvIgnore) := by
  unfold eventKey
  rw [h]
  cases e.tr <;> cases hit <;> rfl

theorem selectEvent_recall (e : EventRec) {s : State} (h : s.rstate = stRecall) (hit : Bool) :
    selectEvent (eventKey s e hit) =
      some (if !e.tr then .rcRelease else if hit then .rcHit else .rcMiss) := by
  unfold eventKey
  rw [h]
  cases e.tr <;> cases hit <;> rfl

/-- R85: in SUCCESS, FAILURE and the reserved states no event operation is selected. -/
theorem selectEvent_other (e : EventRec) {s : State} (h : 3 ≤ s.rstate.toNat) (hit : Bool) :
    selectEvent (eventKey s e hit) = none := by
  unfold eventKey
  generalize s.rstate = r at h
  generalize e.tr = b
  revert r b hit
  decide

theorem hitBit_idle (e : EventRec) {s : State} (h : s.rstate = stIdle) : hitBit s e = .ok false := by
  unfold hitBit
  rw [h]
  rfl

theorem hitBit_preview (e : EventRec) {s : State} (h : s.rstate = stPreview) :
    hitBit s e = .ok (e.button == s.pcur) := if_pos h

theorem hitBit_recall {e : EventRec} {s : State} {l : Index} (h : s.rstate = stRecall)
    (hm : s.map[e.button.toNat]? = some l) (hl : l.toNat ≤ 9) : hitBit s e = .ok (l == s.rcur) := by
  unfold hitBit mapAt
  rw [if_neg (by rw [h]; decide), if_pos h, hm]
  exact if_pos hl

/-- DISPATCH of an event whose comparator has a value and selects an operation (R184). -/
theorem dispatchOp_selected {e : EventRec} {s : State} {hit : Bool} {op : EvOp} (hb : e.button.toNat ≤ 9)
    (hh : hitBit s e = .ok hit) (hs : selectEvent (eventKey s e hit) = some op) :
    dispatchOp e s = andThen (performEvent op e s) autoOp := by
  unfold dispatchOp
  rw [if_pos (by simp [onBoard, hb]), hh]
  simp only [hs]

/-! ### Relations carried through the controller -/

theorem autoLoop_keeps {R : State → State → Prop} (rf : ∀ s, R s s) (tr : ∀ a b c, R a b → R b c → R a c)
    (ha : ∀ op, Keeps R (performAuto op)) (n : Nat) : Keeps R (autoLoop n) := by
  induction n with
  | zero => intro s t h; cases h; exact rf s
  | succ n ih =>
    intro s t h
    rw [autoLoop] at h
    split at h
    · exact ((ha _).andThen tr ih) s t h
    · split at h
      · cases h
      · cases h; exact rf s

theorem dispatchOp_keeps {R : State → State → Prop} (rf : ∀ s, R s s) (tr : ∀ a b c, R a b → R b c → R a c)
    (ha : ∀ op, Keeps R (performAuto op)) (he : ∀ op e, Keeps R (performEvent op e)) (e : EventRec) :
    Keeps R (dispatchOp e) := by
  intro s t h
  unfold dispatchOp at h
  split at h
  · split at h
    · split at h
      · exact ((he _ e).andThen tr (autoLoop_keeps rf tr ha 4)) s t h
      · split at h <;> cases h
    · cases h
  · cases h

theorem dispatchAll_keeps {R : State → State → Prop} (rf : ∀ s, R s s) (tr : ∀ a b c, R a b → R b c → R a c)
    (ha : ∀ op, Keeps R (performAuto op)) (he : ∀ op e, Keeps R (performEvent op e))
    (hl : ∀ s l, R s { s with lane := l }) (es : List EventRec) : Keeps R (dispatchAll es) := by
  induction es with
  | nil => intro s t h; cases h; exact rf s
  | cons e rest ih =>
    intro s t h
    obtain ⟨u, hu, ht⟩ := andThen_eq_next.mp h
    exact tr _ _ _ (tr _ _ _ (hl s e.button) (dispatchOp_keeps rf tr ha he e _ _ hu)) (ih u t ht)

/-- LIGHT changes `LIGHTS` and what pin activity changes (R198). -/
theorem lightOp_pins {p : Pattern} {s t : State} (h : lightOp p s = .next t) : PinsOnly { s with lights := p } t :=
  writeLightsSeq_pinsOnly p _ t h

theorem lightWith_pins {base : Pattern} {l : Index} {s t : State} (h : lightWith base l s = .next t) :
    ∃ p, PinsOnly { s with lights := p } t := by
  unfold lightWith at h
  split at h
  · exact ⟨_, lightOp_pins h⟩
  · cases h

/-- GENERATE writes `MAP` and the RAND stream and nothing else (R160). -/
theorem attempts_frame {n : Nat} {s t : State} (h : attempts n s = .next t) :
    t = { s with map := t.map, rand := t.rand, randPos := t.randPos } := by
  by_cases h1 : 1 ≤ s.nact.toNat
  · exact (attempts_spec h1 h).2.2
  · exfalso
    have h0 : s.nact.toNat = 0 := by omega
    induction n generalizing s with
    | zero => cases h
    | succ n ih =>
      rw [attempts, attempt_next (by omega), andThen_next, if_pos] at h
      · exact ih h h1 h0
      · rw [mapIsIdentity_iff (by show s.nact.toNat ≤ 10; omega)]
        intro k hk hlt
        have : k < s.nact.toNat := hlt
        omega

/-- A mapping found within a bound is found within every larger one (R160). -/
theorem attempts_mono {n k : Nat} {s t : State} (h : attempts n s = .next t) : attempts (n + k) s = .next t := by
  induction n generalizing s with
  | zero => cases h
  | succ n ih =>
    rw [attempts] at h
    obtain ⟨u, hu, ht⟩ := andThen_eq_next.mp h
    rw [show n + 1 + k = n + k + 1 by omega, attempts, hu, andThen_next]
    by_cases hm : mapIsIdentity u
    · rw [if_pos hm] at ht ⊢
      exact ih ht
    · rw [if_neg hm] at ht ⊢
      exact ht

/-! ### What the controller does not look at: `LANE` and the returned value -/

/-- Another value in `LANE` and in the returned value. -/
def relabel (l : BitVec 4) (r : Ret) (s : State) : State := { s with lane := l, ret := r }

/-- The next state, if there is one, changed. -/
def mapNext (f : State → State) (r : Res) : Res :=
  match r with
  | .next s => .next (f s)
  | .fault x => .fault x
  | .refused x => .refused x

/-- The operation neither reads nor writes `LANE` and the returned value. -/
def Blind (f : State → Res) : Prop := ∀ l r s, f (relabel l r s) = mapNext (relabel l r) (f s)

theorem Blind.andThen {f g : State → Res} (hf : Blind f) (hg : Blind g) :
    Blind fun s => Machine.andThen (f s) g := by
  intro l r s
  show Machine.andThen (f (relabel l r s)) g = mapNext (relabel l r) (Machine.andThen (f s) g)
  rw [hf]
  cases f s with
  | next t => exact hg l r t
  | fault x => rfl
  | refused x => rfl

theorem endCycle_blind (code : BitVec 4) (data : Byte) : Blind (endCycle code data) := by
  intro l r s
  unfold endCycle
  show (if 2 ≤ s.pin.drivers then _ else _) = _
  split <;> rfl

theorem Blind.withBus {f : Byte → State → Res} (h : ∀ b, Blind (f b)) : Blind fun s => Machine.withBus s f := by
  intro l r s
  show Machine.withBus (relabel l r s) f = mapNext (relabel l r) (Machine.withBus s f)
  unfold Machine.withBus
  rw [show resolveBus (relabel l r s) = resolveBus s from rfl]
  cases resolveBus s with
  | contention => rfl
  | driven b => exact h b l r s
  | lowBank => exact h _ l r s
  | highBank => exact h _ l r { s with freeHi := Config.freeHigh s.freeCtr, freeCtr := s.freeCtr + 1 }
  | any => exact h _ l r { s with freeCtr := s.freeCtr + 1 }

theorem microBusOut_blind (d : Byte) : Blind (microBusOut d) := fun l r s =>
  endCycle_blind 0x1#4 d l r { s with pin := { s.pin with busOut := d, busDir := true } }

theorem microBusRel_blind : Blind microBusRel := fun l r s =>
  endCycle_blind 0x2#4 0x00#8 l r { s with pin := { s.pin with busDir := false } }

theorem microStbLo_blind : Blind microStbLo := by
  have h (b : Byte) : Blind fun t =>
      endCycle 0x3#4 0x00#8 { t with outLatchLo := b, pin := { t.pin with stbLo := false } } :=
    fun l r t => endCycle_blind 0x3#4 0x00#8 l r { t with outLatchLo := b, pin := { t.pin with stbLo := false } }
  exact fun l r s => Blind.withBus h l r { s with pin := { s.pin with stbLo := true } }

theorem microStbHi_blind : Blind microStbHi := by
  have h (b : Byte) : Blind fun t =>
      endCycle 0x4#4 0x00#8 { t with outLatchHi := b, pin := { t.pin with stbHi := false } } :=
    fun l r t => endCycle_blind 0x4#4 0x00#8 l r { t with outLatchHi := b, pin := { t.pin with stbHi := false } }
  exact fun l r s => Blind.withBus h l r { s with pin := { s.pin with stbHi := true } }

theorem busWriteSeq_blind (bank : Bank) (v : Byte) : Blind (busWriteSeq bank v) := by
  cases bank
  · exact (microBusOut_blind v).andThen microStbLo_blind
  · exact (microBusOut_blind v).andThen microStbHi_blind

theorem writeLightsSeq_blind (p : Pattern) : Blind (writeLightsSeq p) := by
  have hu : Blind fun t => .next (restartUstep t) := fun _ _ _ => rfl
  exact fun l r s => ((((busWriteSeq_blind .lo (byteLo p)).andThen (busWriteSeq_blind .hi (byteHi p))).andThen
    microBusRel_blind).andThen hu) l r (restartUstep s)

theorem lightOp_blind (p : Pattern) : Blind (lightOp p) := fun l r s => writeLightsSeq_blind p l r { s with lights := p }

theorem lightWith_blind (base : Pattern) (light : Index) : Blind (lightWith base light) := by
  intro l r s
  unfold lightWith
  split
  · exact lightOp_blind _ l r s
  · rfl

theorem performAuto_blind (op : AutoOp) : Blind (performAuto op) := by
  intro l r s
  cases op
  · exact ((lightOp_blind 0x000#10).andThen (g := fun t => .next { t with rcur := 0#4 }) fun _ _ _ => rfl) l r
      { s with rstate := stRecall }
  all_goals rfl

theorem autoLoop_blind (n : Nat) : Blind (autoLoop n) := by
  induction n with
  | zero => intro l r s; rfl
  | succ n ih =>
    intro l r s
    rw [autoLoop, autoLoop, show autoKey (relabel l r s) = autoKey s from rfl]
    split
    · exact ((performAuto_blind _).andThen ih) l r s
    · show (if 5 ≤ s.rstate.toNat then _ else _) = _
      split <;> rfl

theorem performEvent_blind (op : EvOp) (e : EventRec) : Blind (performEvent op e) := by
  intro l r s
  cases op
  case pvAdvance =>
    unfold performEvent execPvAdvance
    rw [show mapAt (relabel l r s) (relabel l r s).pcur = mapAt s s.pcur from rfl]
    cases mapAt s s.pcur with
    | none => rfl
    | some light =>
      exact ((lightWith_blind 0x000#10 light).andThen (g := fun t => .next { t with pcur := t.pcur + 1#4 })
        fun _ _ _ => rfl) l r s
  case rcHit =>
    unfold performEvent execRcHit
    rw [show mapAt (relabel l r s) e.button = mapAt s e.button from rfl]
    cases mapAt s e.button with
    | none => rfl
    | some light =>
      exact ((lightWith_blind s.lights light).andThen (g := fun t => .next { t with rcur := t.rcur + 1#4 })
        fun _ _ _ => rfl) l r s
  all_goals rfl

/-- DISPATCH neither reads nor writes `LANE` and the returned value (R184). -/
theorem dispatchOp_blind (e : EventRec) : Blind (dispatchOp e) := by
  intro l r s
  unfold dispatchOp
  rw [show hitBit (relabel l r s) e = hitBit s e from rfl]
  split
  · split
    · rename_i hit _
      rw [show eventKey (relabel l r s) e hit = eventKey s e hit from rfl]
      split
      · exact ((performEvent_blind _ e).andThen (autoLoop_blind 4)) l r s
      · show (if 5 ≤ s.rstate.toNat then _ else _) = _
        split <;> rfl
    · rfl
  · rfl

end Sys2Proof.Machine
end

