-- ==== Sys2Proof/Laws/Cycles.lean ====
section
/-! SUPPORT. How many clock cycles an operation takes (R82: one for each micro-operation), and that SAMPLE has read the
switches after `readCycles` of them, where its events stand in an interrupted step (R141, R69). -/

namespace Sys2Proof.Machine

/-- An operation that puts n entries on the pin trace, whenever it ends. -/
def Takes (n : Nat) (f : State → Res) : Prop := ∀ s t, f s = .next t → t.trace.length = s.trace.length + n

theorem Takes.andThen {n m : Nat} {f g : State → Res} (hf : Takes n f) (hg : Takes m g) :
    Takes (n + m) fun s => Machine.andThen (f s) g := by
  intro s t h
  obtain ⟨u, hu, ht⟩ := andThen_eq_next.mp h
  rw [hg u t ht, hf s u hu, Nat.add_assoc]

theorem endCycle_takes {code : BitVec 4} {data : Byte} {s t : State} (h : endCycle code data s = .next t) :
    t.trace.length = s.trace.length + 1 := by
  obtain ⟨-, rfl⟩ := endCycle_eq_next.mp h
  simp [afterCycle]

theorem nopSeq_takes (n : Nat) : Takes n (nopSeq n) := by
  induction n with
  | zero => intro s t h; cases h; rfl
  | succ n ih =>
    intro s t h
    obtain ⟨u, hu, ht⟩ := andThen_eq_next.mp h
    have hm := endCycle_takes hu
    have hr := ih u t ht
    omega

theorem microOeLoOn_takes : Takes 1 microOeLoOn := by
  intro s t h
  obtain ⟨u, hu, ht⟩ := andThen_eq_next.mp h
  cases ht
  have hc := endCycle_takes hu
  exact hc

theorem microOeHiOn_takes : Takes 1 microOeHiOn := by
  intro s t h
  obtain ⟨u, hu, ht⟩ := andThen_eq_next.mp h
  cases ht
  have hc := endCycle_takes hu
  exact hc

theorem microSampLo_takes : Takes 1 microSampLo := by
  intro s t h
  obtain ⟨-, b, fh, fc, -, hf⟩ := withBus_cases h
  have hc := endCycle_takes hf
  exact hc

theorem microSampHi_takes : Takes 1 microSampHi := by
  intro s t h
  obtain ⟨-, b, fh, fc, -, hf⟩ := withBus_cases h
  have hc := endCycle_takes hf
  exact hc

/-- BUS_READ: enable, the settle wait, sample, disable (R125). -/
theorem busReadSeq_takes (bank : Bank) {s t : State} (h : busReadSeq bank s = .next t) :
    t.trace.length = s.trace.length + (3 + s.cfg.settleCycles) := by
  have hoff : Takes 1 microOeLoOff := fun _ _ h => by have hc := endCycle_takes h; exact hc
  have hoff' : Takes 1 microOeHiOff := fun _ _ h => by have hc := endCycle_takes h; exact hc
  cases bank
  · have := (((microOeLoOn_takes.andThen (nopSeq_takes s.cfg.settleCycles)).andThen microSampLo_takes).andThen hoff) s t h
    omega
  · have := (((microOeHiOn_takes.andThen (nopSeq_takes s.cfg.settleCycles)).andThen microSampHi_takes).andThen hoff') s t h
    omega

/-- READ_SWITCHES takes `readCycles` cycles (R127). -/
theorem readSwitchesSeq_takes {s t : State} (h : readSwitchesSeq s = .next t) :
    t.trace.length = s.trace.length + readCycles s.cfg := by
  obtain ⟨w, hw, ht⟩ := andThen_eq_next.mp h
  obtain ⟨v, hv, hw⟩ := andThen_eq_next.mp hw
  obtain ⟨u, hu, hv⟩ := andThen_eq_next.mp hv
  cases ht
  have hc := endCycle_takes (s := { restartUstep s with pin := { s.pin with busDir := false } }) hu
  have h1 : u.trace.length = s.trace.length + 1 := hc
  have h2 := busReadSeq_takes .lo hv
  have h3 := busReadSeq_takes .hi hw
  have c1 : u.cfg = s.cfg := by rw [PinsOnly.eq (microBusRel_readOnly _ _ hu).1]; rfl
  have c2 : v.cfg = u.cfg := by rw [PinsOnly.eq (busReadSeq_readOnly .lo _ _ hv).1]
  rw [c2, c1] at h3
  rw [c1] at h2
  show w.trace.length = _
  unfold readCycles
  omega

theorem scanLanes_trace (raw : Pattern) (is : List Nat) (s : State) : (scanLanes raw is s).trace = s.trace := by
  induction is generalizing s with
  | nil => rfl
  | cons i rest ih =>
    rw [scanLanes, ih]
    unfold debounceLane emitEvent
    dsimp only
    split <;> rfl

/-- SAMPLE emits after exactly `readCycles` cycles: the lanes put nothing on the pin trace (R141). -/
theorem sampleOp_takes {s t : State} (h : sampleOp s = .next t) :
    t.trace.length = s.trace.length + readCycles s.cfg := by
  obtain ⟨u, hu, ht⟩ := andThen_eq_next.mp h
  cases ht
  rw [← readSwitchesSeq_takes hu]
  exact congrArg List.length (scanLanes_trace _ _ _)

end Sys2Proof.Machine
end

