-- ==== Sys2Proof/Laws/Encoding.lean ====
section
/-! SUPPORT. The fields of a packed word read back: concatenation, the event record, the command word (R84, log 2). -/

namespace Sys2Proof

theorem extract_append_low {n m : Nat} (x : BitVec n) (y : BitVec m) : (x ++ y).extractLsb' 0 m = y := by
  apply BitVec.eq_of_getLsbD_eq
  intro i hi
  simp [hi, BitVec.getLsbD_append]

theorem extract_append_high {n m : Nat} (x : BitVec n) (y : BitVec m) : (x ++ y).extractLsb' m n = x := by
  apply BitVec.eq_of_getLsbD_eq
  intro i hi
  simp [hi, BitVec.getLsbD_append]

theorem getLsbD_append_low {n m : Nat} (x : BitVec n) (y : BitVec m) (i : Nat) (hi : i < m) :
    (x ++ y).getLsbD i = y.getLsbD i := by
  simp [hi, BitVec.getLsbD_append]

theorem getLsbD_append_high {n m : Nat} (x : BitVec n) (y : BitVec m) (i : Nat) :
    (x ++ y).getLsbD (m + i) = x.getLsbD i := by
  simp [BitVec.getLsbD_append]

/-- A narrower field of the low part. -/
theorem extract_append_within {n m : Nat} (x : BitVec n) (y : BitVec m) (k w : Nat) (h : k + w ≤ m) :
    (x ++ y).extractLsb' k w = y.extractLsb' k w := by
  apply BitVec.eq_of_getLsbD_eq
  intro i hi
  have : k + i < m := by omega
  simp [hi, this, BitVec.getLsbD_append]

/-- R84: the fields of the event record's word. -/
theorem EventRec.ofWord_toWord (e : EventRec) : EventRec.ofWord e.toWord = e := by
  obtain ⟨ts, tr, b⟩ := e
  have h1 : EventRec.ofWord (EventRec.toWord ⟨ts, tr, b⟩) =
      ⟨(ts ++ (BitVec.ofBool tr ++ b) : BitVec (32 + (1 + 4))).extractLsb' (1 + 4) 32,
        (ts ++ (BitVec.ofBool tr ++ b) : BitVec (32 + (1 + 4))).getLsbD (4 + 0),
        (ts ++ (BitVec.ofBool tr ++ b) : BitVec (32 + (1 + 4))).extractLsb' 0 4⟩ := rfl
  rw [h1, extract_append_high, getLsbD_append_low _ _ _ (by omega), getLsbD_append_high,
    extract_append_within _ _ _ _ (by omega), extract_append_low]
  simp

/-- The fields of a command word (log 2). -/
theorem packCommand_fields (format : BitVec 3) (code : BitVec 5) (opnd : BitVec 40) :
    (packCommand format code opnd).extractLsb' 5 3 = format ∧
    (packCommand format code opnd).extractLsb' 0 5 = code ∧
    (packCommand format code opnd).extractLsb' 8 40 = opnd := by
  have h : packCommand format code opnd = (opnd ++ (format ++ code) : BitVec (40 + (3 + 5))) := rfl
  refine ⟨?_, ?_, ?_⟩
  · rw [h]
    exact (extract_append_within opnd (format ++ code) 5 3 (by omega)).trans (extract_append_high format code)
  · rw [h]
    exact (extract_append_within opnd (format ++ code) 0 5 (by omega)).trans (extract_append_low format code)
  · rw [h]
    exact extract_append_high opnd (format ++ code)

/-- Decoding a packed word decodes its fields and checks the operands. -/
theorem decode_packCommand (format : BitVec 3) (code : BitVec 5) (opnd : BitVec 40) :
    decode (packCommand format code opnd) =
      match decodeFields format code opnd with
      | .ok i => checkOperands i
      | .error e => .error e := by
  obtain ⟨h1, h2, h3⟩ := packCommand_fields format code opnd
  cases hd : decodeFields format code opnd <;> simp [decode, h1, h2, h3, hd]

/-- An operand of w bits, stored in the operand field, is read back. -/
theorem withOperand_setWidth {w : Nat} (hw : w ≤ 40) (x : BitVec w) (f : BitVec w → Instr) :
    withOperand w (x.setWidth 40) f = .ok (f x) := by
  have hx : (x.setWidth 40).toNat = x.toNat := by
    rw [BitVec.toNat_setWidth, Nat.mod_eq_of_lt]
    exact lt_of_lt_of_le x.isLt (Nat.pow_le_pow_right (by omega) hw)
  unfold withOperand
  congr 2
  apply BitVec.eq_of_toNat_eq
  rw [BitVec.toNat_setWidth, hx, Nat.mod_eq_of_lt x.isLt]

/-- An instruction whose indices are of the board passes the check of its operands. -/
theorem checkOperands_onBoard {i : Instr} (h : i.indicesOnBoard = true) : checkOperands i = .ok i := by
  unfold Instr.indicesOnBoard at h
  unfold checkOperands
  cases hp : i.problem with
  | none => rfl
  | some why => simp_all

/-- A well-formed instruction has no index beyond the board. -/
theorem Instr.indicesOnBoard_of_wellFormed {i : Instr} (h : i.wellFormed = true) : i.indicesOnBoard = true := by
  unfold Instr.wellFormed at h
  unfold Instr.indicesOnBoard
  cases hp : i.problem with
  | none => rfl
  | some why => rw [hp] at h; cases h

/-- What passes the check of its operands is the instruction itself, its indices of the board. -/
theorem checkOperands_ok {i j : Instr} (h : checkOperands i = .ok j) : j = i ∧ i.indicesOnBoard = true := by
  unfold checkOperands at h
  unfold Instr.indicesOnBoard
  cases hp : i.problem with
  | none => rw [hp] at h; cases h; exact ⟨rfl, rfl⟩
  | some why =>
    rw [hp] at h
    cases hr : why.refused <;> simp [hr] at h ⊢
    exact h.symm

end Sys2Proof
end

