-- ==== Sys2Proof/Laws/PerInstr.lean ====
section
/-! SUPPORT. What holds of each instruction as syntax: the code its command word carries is the one its row of the opcode
table gives it (R81), under the selector of the row's format (log 2). -/

namespace Sys2Proof.Laws.TableCode

/-- The opcode table as printed (R81): selector of the format, and the row's match and mask. -/
def row : Instr → BitVec 3 × BitVec 5 × BitVec 5
  | .uNop => (1#3, 0x00#5, 0x0F#5)
  | .uBusOut _ => (1#3, 0x01#5, 0x0F#5)
  | .uBusRel => (1#3, 0x02#5, 0x0F#5)
  | .uStbLo => (1#3, 0x03#5, 0x0F#5)
  | .uStbHi => (1#3, 0x04#5, 0x0F#5)
  | .uOeLoOn => (1#3, 0x05#5, 0x0F#5)
  | .uOeLoOff => (1#3, 0x06#5, 0x0F#5)
  | .uOeHiOn => (1#3, 0x07#5, 0x0F#5)
  | .uOeHiOff => (1#3, 0x08#5, 0x0F#5)
  | .uSampLo => (1#3, 0x09#5, 0x0F#5)
  | .uSampHi => (1#3, 0x0A#5, 0x0F#5)
  | .busWrite _ _ => (0#3, 0x0D#5, 0x0F#5)
  | .busRead _ => (0#3, 0x0E#5, 0x0F#5)
  | .writeLights _ => (0#3, 0x03#5, 0x0F#5)
  | .readSwitches => (0#3, 0x02#5, 0x0F#5)
  | .sample => (0#3, 0x01#5, 0x0F#5)
  | .debounce _ _ => (0#3, 0x04#5, 0x0F#5)
  | .emit _ _ => (0#3, 0x05#5, 0x0F#5)
  | .generate => (0#3, 0x06#5, 0x0F#5)
  | .gInit => (0#3, 0x07#5, 0x0F#5)
  | .gSwap _ _ => (0#3, 0x08#5, 0x0F#5)
  | .gCheck => (0#3, 0x09#5, 0x0F#5)
  | .noreq => (2#3, 0x00#5, 0x1C#5)
  | .start _ => (2#3, 0x04#5, 0x1C#5)
  | .sessionReset => (2#3, 0x08#5, 0x18#5)
  | .abort => (2#3, 0x10#5, 0x10#5)
  | .tick _ => (0#3, 0x00#5, 0x0F#5)
  | .dispatch _ => (0#3, 0x0B#5, 0x0F#5)
  | .auto => (0#3, 0x0C#5, 0x0F#5)
  | .evDrop _ => (3#3, 0x00#5, 0x1C#5)
  | .pvRelease _ => (3#3, 0x04#5, 0x1E#5)
  | .pvIgnore _ => (3#3, 0x06#5, 0x1F#5)
  | .pvAdvance _ => (3#3, 0x07#5, 0x1F#5)
  | .rcRelease _ => (3#3, 0x08#5, 0x1E#5)
  | .rcMiss _ => (3#3, 0x0A#5, 0x1F#5)
  | .rcHit _ => (3#3, 0x0B#5, 0x1F#5)
  | .pvDone => (4#3, 0x03#5, 0x0F#5)
  | .rcDone => (4#3, 0x05#5, 0x0F#5)
  | .reportSuccess => (4#3, 0x06#5, 0x0E#5)
  | .reportFailure => (4#3, 0x08#5, 0x0E#5)
  | .record _ _ => (0#3, 0x0A#5, 0x0F#5)
  | .reset => (0#3, 0x0F#5, 0x0F#5)

/-- The instruction's command word is of the row's format, and its code matches the row. -/
def Statement (i : Instr) : Prop :=
  (encode i).extractLsb' 5 3 = (row i).1 ∧ (encode i).extractLsb' 0 5 &&& (row i).2.2 = (row i).2.1

/-- A packed word matches a row if its selector and code do. -/
theorem packed {i : Instr} (format : BitVec 3) (code : BitVec 5) (opnd : BitVec 40)
    (hi : encode i = packCommand format code opnd)
    (hr : format = (row i).1 ∧ code &&& (row i).2.2 = (row i).2.1) : Statement i := by
  obtain ⟨h1, h2, -⟩ := packCommand_fields format code opnd
  rw [Statement, hi, h1, h2]
  exact hr

theorem uNop : Statement (.uNop) :=
  packed _ _ _ rfl ⟨rfl, rfl⟩

theorem uBusOut (d : Byte) : Statement (.uBusOut d) :=
  packed _ _ _ rfl ⟨rfl, by simp only [row]; decide⟩

theorem uBusRel : Statement (.uBusRel) :=
  packed _ _ _ rfl ⟨rfl, rfl⟩

theorem uStbLo : Statement (.uStbLo) :=
  packed _ _ _ rfl ⟨rfl, rfl⟩

theorem uStbHi : Statement (.uStbHi) :=
  packed _ _ _ rfl ⟨rfl, rfl⟩

theorem uOeLoOn : Statement (.uOeLoOn) :=
  packed _ _ _ rfl ⟨rfl, rfl⟩

theorem uOeLoOff : Statement (.uOeLoOff) :=
  packed _ _ _ rfl ⟨rfl, rfl⟩

theorem uOeHiOn : Statement (.uOeHiOn) :=
  packed _ _ _ rfl ⟨rfl, rfl⟩

theorem uOeHiOff : Statement (.uOeHiOff) :=
  packed _ _ _ rfl ⟨rfl, rfl⟩

theorem uSampLo : Statement (.uSampLo) :=
  packed _ _ _ rfl ⟨rfl, rfl⟩

theorem uSampHi : Statement (.uSampHi) :=
  packed _ _ _ rfl ⟨rfl, rfl⟩

theorem busWrite (bank : Bank) (v : Byte) : Statement (.busWrite bank v) :=
  packed _ _ _ rfl ⟨rfl, by simp only [row]; decide⟩

theorem busRead (bank : Bank) : Statement (.busRead bank) :=
  packed _ _ _ rfl ⟨rfl, by simp only [row]; decide⟩

theorem writeLights (p : Pattern) : Statement (.writeLights p) :=
  packed _ _ _ rfl ⟨rfl, by simp only [row]; decide⟩

theorem readSwitches : Statement (.readSwitches) :=
  packed _ _ _ rfl ⟨rfl, rfl⟩

theorem sample : Statement (.sample) :=
  packed _ _ _ rfl ⟨rfl, rfl⟩

theorem debounce (k : Index) (raw : Pattern) : Statement (.debounce k raw) :=
  packed _ _ _ rfl ⟨rfl, by simp only [row]; decide⟩

theorem emit (k : Index) (b : Bool) : Statement (.emit k b) :=
  packed _ _ _ rfl ⟨rfl, by simp only [row]; decide⟩

theorem generate : Statement (.generate) :=
  packed _ _ _ rfl ⟨rfl, rfl⟩

theorem gInit : Statement (.gInit) :=
  packed _ _ _ rfl ⟨rfl, rfl⟩

theorem gSwap (k j : Index) : Statement (.gSwap k j) :=
  packed _ _ _ rfl ⟨rfl, by simp only [row]; decide⟩

theorem gCheck : Statement (.gCheck) :=
  packed _ _ _ rfl ⟨rfl, rfl⟩

theorem noreq : Statement (.noreq) :=
  packed _ _ _ rfl ⟨rfl, rfl⟩

theorem start (d : BitVec 2) : Statement (.start d) :=
  packed _ _ _ rfl ⟨rfl, by revert d; simp only [row]; decide⟩

theorem sessionReset : Statement (.sessionReset) :=
  packed _ _ _ rfl ⟨rfl, rfl⟩

theorem abort : Statement (.abort) :=
  packed _ _ _ rfl ⟨rfl, rfl⟩

theorem tick (sw : Pattern) : Statement (.tick sw) :=
  packed _ _ _ rfl ⟨rfl, by simp only [row]; decide⟩

theorem dispatch (e : EventRec) : Statement (.dispatch e) :=
  packed _ _ _ rfl ⟨rfl, by simp only [row]; decide⟩

theorem auto : Statement (.auto) :=
  packed _ _ _ rfl ⟨rfl, rfl⟩

theorem evDrop (e : EventRec) : Statement (.evDrop e) :=
  packed _ _ _ rfl ⟨rfl, by simp only [row]; decide⟩

theorem pvRelease (e : EventRec) : Statement (.pvRelease e) :=
  packed _ _ _ rfl ⟨rfl, by simp only [row]; decide⟩

theorem pvIgnore (e : EventRec) : Statement (.pvIgnore e) :=
  packed _ _ _ rfl ⟨rfl, by simp only [row]; decide⟩

theorem pvAdvance (e : EventRec) : Statement (.pvAdvance e) :=
  packed _ _ _ rfl ⟨rfl, by simp only [row]; decide⟩

theorem rcRelease (e : EventRec) : Statement (.rcRelease e) :=
  packed _ _ _ rfl ⟨rfl, by simp only [row]; decide⟩

theorem rcMiss (e : EventRec) : Statement (.rcMiss e) :=
  packed _ _ _ rfl ⟨rfl, by simp only [row]; decide⟩

theorem rcHit (e : EventRec) : Statement (.rcHit e) :=
  packed _ _ _ rfl ⟨rfl, by simp only [row]; decide⟩

theorem pvDone : Statement (.pvDone) :=
  packed _ _ _ rfl ⟨rfl, rfl⟩

theorem rcDone : Statement (.rcDone) :=
  packed _ _ _ rfl ⟨rfl, rfl⟩

theorem reportSuccess : Statement (.reportSuccess) :=
  packed _ _ _ rfl ⟨rfl, rfl⟩

theorem reportFailure : Statement (.reportFailure) :=
  packed _ _ _ rfl ⟨rfl, rfl⟩

theorem record (b : Bool) (c : Index) : Statement (.record b c) :=
  packed _ _ _ rfl ⟨rfl, by simp only [row]; decide⟩

theorem reset : Statement (.reset) :=
  packed _ _ _ rfl ⟨rfl, rfl⟩

end Sys2Proof.Laws.TableCode
end

