-- ==== Sys2Proof/Laws/Step.lean ====
section
/-! SUPPORT. What a step is in a state that a model refuses (R94 b, R235 b) and in one that it does not, and what a reset in
the middle of a step leaves (R264). -/

namespace Sys2Proof.Machine

theorem illegalSize_eq_none {c : Config} : illegalSize c = none ↔ legalSizes c := by
  simp [illegalSize, legalSizes, List.find?_eq_none]
  omega

/-- The size that is named is one of the configuration's, and illegal. -/
theorem illegalSize_eq_some {c : Config} {n : Nat} (h : illegalSize c = some n) :
    n ∈ [c.activeEasy, c.activeMedium, c.activeHard] ∧ (n < 2 ∨ 10 < n) :=
  ⟨List.mem_of_find?_eq_some h, by simpa using List.find?_some h⟩

theorem stateProblem_eq_none {s : State} : stateProblem s = none ↔ Admitted s := by
  by_cases h : 5 ≤ s.rstate.toNat
  · simp [stateProblem, h, Admitted]; omega
  · simp [stateProblem, h, Admitted, illegalSize_eq_none]; omega

theorem refuseState_admitted {s : State} {r : Res} (h : Admitted s) : refuseState s r = r := by
  rw [refuseState, stateProblem_eq_none.mpr h]

/-- A step that answers a next state began in a state that is not refused. -/
theorem refuseState_eq_next {s t : State} {r : Res} : refuseState s r = .next t ↔ Admitted s ∧ r = .next t := by
  rw [← stateProblem_eq_none]
  cases h : stateProblem s <;> simp [refuseState, h]

theorem step_nil {s : State} (hs : Admitted s) (h : s.inbox = []) : step s = .next s := by
  simp only [step, h, refuseState_admitted hs]

theorem step_cons {s : State} {c : Cmd} {rest : List Cmd} (hs : Admitted s) (h : s.inbox = c :: rest) :
    step s = runCommand c (beginStep c rest s) := by
  simp only [step, h, refuseState_admitted hs]

theorem step_reserved {s : State} (h : 5 ≤ s.rstate.toNat) : step s = .refused (.reservedRState s.rstate) := by
  simp only [step, refuseState, stateProblem, if_pos h]

theorem step_illegalSizes {s : State} (hr : s.rstate.toNat ≤ 4) (h : ¬ legalSizes s.cfg) :
    ∃ n ∈ [s.cfg.activeEasy, s.cfg.activeMedium, s.cfg.activeHard],
      (n < 2 ∨ 10 < n) ∧ step s = .refused (.activeSize n) := by
  cases hn : illegalSize s.cfg with
  | none => exact absurd (illegalSize_eq_none.mp hn) h
  | some n =>
    refine ⟨n, (illegalSize_eq_some hn).1, (illegalSize_eq_some hn).2, ?_⟩
    simp only [step, refuseState, stateProblem, hn, if_neg (by omega : ¬ 5 ≤ s.rstate.toNat), Option.map_some]

/-- The reset of a step is the block's reset after some micro-operations, and the words taken, of that step. -/
theorem resetWithin_eq_next {cut : Cut} {i : Instr} {s t u : State} (h : resetWithin cut i s t = .next u) :
    ∃ n ws v, replay ws (dropRand n { s with sw := t.sw }) = .next v ∧
      u = { resetBlock v with events := eventsDriven cut (emitCycle i s.cfg) t.events } := by
  obtain ⟨v, hv, hu⟩ := andThen_eq_next.mp h
  cases hu
  exact ⟨_, _, v, hv, rfl⟩

/-- Whatever the step, a next state after a reset in its middle is one that the block's reset made. -/
theorem cutShort_eq_next {cut : Cut} {i : Instr} {s u : State} {whole : Res} (h : cutShort cut i s whole = .next u) :
    ∃ n ws sw es v, replay ws (dropRand n { s with sw := sw }) = .next v ∧ u = { resetBlock v with events := es } := by
  have within : ∀ {t : State}, resetWithin cut i s t = .next u →
      ∃ n ws sw es v, replay ws (dropRand n { s with sw := sw }) = .next v ∧ u = { resetBlock v with events := es } := by
    intro t ht
    obtain ⟨n, ws, v, hv, hu⟩ := resetWithin_eq_next ht
    exact ⟨n, ws, t.sw, _, v, hv, hu⟩
  unfold cutShort at h
  split at h
  · exact within h
  · cases h; exact ⟨cut.words, [], s.sw, s.events, _, rfl, rfl⟩
  · unfold resetBefore at h
    split at h
    · exact within h
    · cases h
  · unfold resetBefore at h
    split at h
    · exact within h
    · cases h

/-! ### The events of an interrupted step stand at the right place of its pin trace (R69) -/

@[simp] theorem eventsDriven_nil (cut : Cut) (point : Nat) : eventsDriven cut point [] = [] := by
  simp [eventsDriven]

theorem eventsDriven_before {cut : Cut} {point : Nat} (h : cut.micro < point) (es : List EventRec) :
    eventsDriven cut point es = [] := if_pos h

theorem eventsDriven_after {cut : Cut} {point : Nat} (h : point < cut.micro) (es : List EventRec) :
    eventsDriven cut point es = es := by
  rw [eventsDriven, if_neg (by omega), if_neg (by omega)]

end Sys2Proof.Machine
end

