-- ==== Sys2Proof/Tests/Slice0.lean ====
section
/-! SUPPORT. Tests: the ill-formed terms are refused; a command word written out from the encodings of 30_encoding.md decodes
to each operation; one step of each operation gives what the vectors of 95_test_vectors.md say; and the hypotheses of every
statement are met somewhere. Expected values are the spec's own, from the vector named beside each test. -/

namespace Sys2Proof.Tests

open Sys2Proof Sys2Proof.Machine

/-! ### WellFormed: an ill-formed term for each check -/

theorem test_lane_range : (Instr.debounce 10#4 0x001#10).problem = some .laneRange := by decide
theorem test_button_range_emit : (Instr.emit 12#4 true).problem = some .buttonRange := by decide
theorem test_button_range_dispatch : (Instr.dispatch ⟨0#32, true, 10#4⟩).problem = some .buttonRange := by decide
theorem test_button_range_event : (Instr.pvAdvance ⟨0#32, true, 15#4⟩).problem = some .buttonRange := by decide
theorem test_swap_order : (Instr.gSwap 2#4 3#4).problem = some .swapOrder := by decide
theorem test_swap_range_board : (Instr.gSwap 10#4 3#4).problem = some .swapRange := by decide
theorem test_count_range : (Instr.record true 11#4).problem = some .countRange := by decide
theorem test_transition_pressed : (Instr.rcHit ⟨0#32, false, 3#4⟩).problem = some .transition := by decide
theorem test_transition_released : (Instr.pvRelease ⟨0#32, true, 3#4⟩).problem = some .transition := by decide
theorem test_well_formed : (Instr.gSwap 9#4 9#4).wellFormed = true ∧ (Instr.record false 10#4).wellFormed = true ∧
    (Instr.debounce 9#4 0x3FF#10).wellFormed = true ∧ (Instr.rcHit ⟨7#32, true, 9#4⟩).wellFormed = true := by decide

/-! ### Decode: operand bits (47:8), format selector (7:5), code (4:0), written out from R82 to R86, R98 and R99 -/

theorem test_decode_uNop :
    decode (0b0000000000000000000000000000000000000000#40 ++ 0b001_00000#8) = .ok .uNop := by decide
theorem test_decode_uBusOut :
    decode (0b0000000000000000000000000000000011111011#40 ++ 0b001_00001#8) = .ok (.uBusOut 0xFB#8) := by decide
theorem test_decode_uBusRel :
    decode (0b0000000000000000000000000000000000000000#40 ++ 0b001_00010#8) = .ok .uBusRel := by decide
theorem test_decode_uStbLo :
    decode (0b0000000000000000000000000000000000000000#40 ++ 0b001_00011#8) = .ok .uStbLo := by decide
theorem test_decode_uStbHi :
    decode (0b0000000000000000000000000000000000000000#40 ++ 0b001_00100#8) = .ok .uStbHi := by decide
theorem test_decode_uOeLoOn :
    decode (0b0000000000000000000000000000000000000000#40 ++ 0b001_00101#8) = .ok .uOeLoOn := by decide
theorem test_decode_uOeLoOff :
    decode (0b0000000000000000000000000000000000000000#40 ++ 0b001_00110#8) = .ok .uOeLoOff := by decide
theorem test_decode_uOeHiOn :
    decode (0b0000000000000000000000000000000000000000#40 ++ 0b001_00111#8) = .ok .uOeHiOn := by decide
theorem test_decode_uOeHiOff :
    decode (0b0000000000000000000000000000000000000000#40 ++ 0b001_01000#8) = .ok .uOeHiOff := by decide
theorem test_decode_uSampLo :
    decode (0b0000000000000000000000000000000000000000#40 ++ 0b001_01001#8) = .ok .uSampLo := by decide
theorem test_decode_uSampHi :
    decode (0b0000000000000000000000000000000000000000#40 ++ 0b001_01010#8) = .ok .uSampHi := by decide
theorem test_decode_busWrite :
    decode (0b0000000000000000000000000000000111111100#40 ++ 0b000_01101#8) = .ok (.busWrite .hi 0xFC#8) := by decide
theorem test_decode_busRead :
    decode (0b0000000000000000000000000000000000000000#40 ++ 0b000_01110#8) = .ok (.busRead .lo) := by decide
theorem test_decode_writeLights :
    decode (0b0000000000000000000000000000001000000100#40 ++ 0b000_00011#8) = .ok (.writeLights 0x204#10) := by decide
theorem test_decode_readSwitches :
    decode (0b0000000000000000000000000000000000000000#40 ++ 0b000_00010#8) = .ok .readSwitches := by decide
theorem test_decode_sample :
    decode (0b0000000000000000000000000000000000000000#40 ++ 0b000_00001#8) = .ok .sample := by decide
theorem test_decode_debounce :
    decode (0b0000000000000000000000000001011000000001#40 ++ 0b000_00100#8) = .ok (.debounce 5#4 0x201#10) := by decide
theorem test_decode_emit :
    decode (0b0000000000000000000000000000000000010010#40 ++ 0b000_00101#8) = .ok (.emit 2#4 true) := by decide
theorem test_decode_generate :
    decode (0b0000000000000000000000000000000000000000#40 ++ 0b000_00110#8) = .ok .generate := by decide
theorem test_decode_gInit :
    decode (0b0000000000000000000000000000000000000000#40 ++ 0b000_00111#8) = .ok .gInit := by decide
theorem test_decode_gSwap :
    decode (0b0000000000000000000000000000000010010100#40 ++ 0b000_01000#8) = .ok (.gSwap 9#4 4#4) := by decide
theorem test_decode_gCheck :
    decode (0b0000000000000000000000000000000000000000#40 ++ 0b000_01001#8) = .ok .gCheck := by decide
theorem test_decode_noreq :
    decode (0b0000000000000000000000000000000000000000#40 ++ 0b010_00011#8) = .ok .noreq := by decide
theorem test_decode_start :
    decode (0b0000000000000000000000000000000000000000#40 ++ 0b010_00101#8) = .ok (.start 0b01#2) := by decide
theorem test_decode_sessionReset :
    decode (0b0000000000000000000000000000000000000000#40 ++ 0b010_01100#8) = .ok .sessionReset := by decide
theorem test_decode_abort :
    decode (0b0000000000000000000000000000000000000000#40 ++ 0b010_11111#8) = .ok .abort := by decide
theorem test_decode_tick :
    decode (0b0000000000000000000000000000000010000100#40 ++ 0b000_00000#8) = .ok (.tick 0x084#10) := by decide
theorem test_decode_dispatch :
    decode (0b0000000000000000000000000000000011110010#40 ++ 0b000_01011#8) = .ok (.dispatch ⟨7#32, true, 2#4⟩) := by decide
theorem test_decode_auto :
    decode (0b0000000000000000000000000000000000000000#40 ++ 0b000_01100#8) = .ok .auto := by decide
theorem test_decode_evDrop :
    decode (0b0000000000000000000000000000000001100100#40 ++ 0b011_00001#8) = .ok (.evDrop ⟨3#32, false, 4#4⟩) := by decide
theorem test_decode_pvRelease :
    decode (0b0000000000000000000000000000000001100000#40 ++ 0b011_00101#8) = .ok (.pvRelease ⟨3#32, false, 0#4⟩) := by decide
theorem test_decode_pvIgnore :
    decode (0b0000000000000000000000000000000011010010#40 ++ 0b011_00110#8) = .ok (.pvIgnore ⟨6#32, true, 2#4⟩) := by decide
theorem test_decode_pvAdvance :
    decode (0b0000000000000000000000000000000000110000#40 ++ 0b011_00111#8) = .ok (.pvAdvance ⟨1#32, true, 0#4⟩) := by decide
theorem test_decode_rcRelease :
    decode (0b0000000000000000000000000000000101100010#40 ++ 0b011_01001#8) = .ok (.rcRelease ⟨11#32, false, 2#4⟩) := by decide
theorem test_decode_rcMiss :
    decode (0b0000000000000000000000000000001000110000#40 ++ 0b011_01010#8) = .ok (.rcMiss ⟨17#32, true, 0#4⟩) := by decide
theorem test_decode_rcHit :
    decode (0b0000000000000000000000000000000110110001#40 ++ 0b011_01011#8) = .ok (.rcHit ⟨13#32, true, 1#4⟩) := by decide
theorem test_decode_pvDone :
    decode (0b0000000000000000000000000000000000000000#40 ++ 0b100_00011#8) = .ok .pvDone := by decide
theorem test_decode_rcDone :
    decode (0b0000000000000000000000000000000000000000#40 ++ 0b100_00101#8) = .ok .rcDone := by decide
theorem test_decode_reportSuccess :
    decode (0b0000000000000000000000000000000000000000#40 ++ 0b100_00111#8) = .ok .reportSuccess := by decide
theorem test_decode_reportFailure :
    decode (0b0000000000000000000000000000000000000000#40 ++ 0b100_01001#8) = .ok .reportFailure := by decide
theorem test_decode_record :
    decode (0b0000000000000000000000000000000000011010#40 ++ 0b000_01010#8) = .ok (.record true 10#4) := by decide
theorem test_decode_reset :
    decode (0b0000000000000000000000000000000000000000#40 ++ 0b000_01111#8) = .ok .reset := by decide

theorem test_decode_stray_operand :
    decode (0b0000000000000000000000000000000100000000#40 ++ 0b001_00001#8) = .ok (.uBusOut 0x00#8) := by decide
theorem test_decode_wide_code :
    decode (0b0000000000000000000000000000000000000000#40 ++ 0b001_10000#8) = .ok .uNop := by decide
theorem test_decode_unknown_format :
    decode (0b0000000000000000000000000000000000000000#40 ++ 0b101_00000#8) = .error .unknownFormat := by decide
theorem test_decode_swap_order :
    decode (0b0000000000000000000000000000000001001001#40 ++ 0b000_01000#8) = .ok (.gSwap 4#4 9#4) := by decide
theorem test_decode_swap_range :
    decode (0b0000000000000000000000000000000001001010#40 ++ 0b000_01000#8) = .error (.illFormed .swapRange) := by decide

/-- R81: the code 01111 of the table, stored as the next command, runs RESET. -/
theorem test_fetch_table_word :
    decodeTableWord 8 0x0F = some .reset ∧ decodeTableWord 8 0x10 = some .abort ∧
      step (({ State.reset with score := 42 } : State).withFetchWord 8 0x0F) = .next State.reset := ⟨rfl, rfl, rfl⟩

/-! ### One operation on a small state: the vectors of 95_test_vectors.md -/

/-- What an operation leaves, seen through one view of the state. -/
def after {α : Type} (i : Instr) (s : State) (f : State → α) : Option α :=
  match exec i s with
  | .next t => some (f t)
  | .fault _ => none
  | .refused _ => none

/-- The state of section 2.7: three active positions, the mapping of the source's scenario. -/
def scenario (rstate : RState) (pcur rcur : Index) (lights : Pattern) : State :=
  { State.reset with
    nact := 3#4, map := #v[2#4, 0#4, 1#4, 3#4, 4#4, 5#4, 6#4, 7#4, 8#4, 9#4]
    rstate := rstate, pcur := pcur, rcur := rcur, lights := lights }

/-- What the controller's vectors show: state, cursors, lights, outcome word, score, trace. -/
def shown (s : State) : RState × Index × Index × Pattern × BitVec 6 × Nat × List TraceEntry :=
  (s.rstate, s.pcur, s.rcur, s.lights, s.outcomeWord, s.score, s.trace)

/-- A press, and a release, as an event record. -/
def press (b : Index) : EventRec := ⟨7#32, true, b⟩
def release (b : Index) : EventRec := ⟨7#32, false, b⟩

/-- `PINCTL` with the low or the high input bank enabled for a number of cycles. -/
def lowOn (n : Nat) (s : State) : State := { s with pin := { s.pin with oeLoN := false }, settleLo := n }
def highOn (n : Nat) (s : State) : State := { s with pin := { s.pin with oeHiN := false }, settleHi := n }
def driving (d : Byte) (s : State) : State := { s with pin := { s.pin with busOut := d, busDir := true } }
def withSw (sw : Pattern) (s : State) : State := { s with sw := sw }

/-- 2.2 cycle 3: a no-op changes no register and gives the bank one more cycle. -/
theorem test_nop_counts :
    after .uNop (lowOn 0 State.reset) (fun s => (s.pin.toWord, s.trace, s.settleLo)) = some (0x2000#14, [0x000#12], 1) := by decide
/-- 2.2 cycle 1. -/
theorem test_bus_out :
    after (.uBusOut 0xFB#8) State.reset (fun s => (s.pin.toWord, s.trace)) = some (0x31FB#14, [0x1FB#12]) := by decide
/-- R112: an enabled input latch. -/
theorem test_bus_out_contends :
    exec (.uBusOut 0xFB#8) (lowOn 0 State.reset) = .fault .busContention := rfl
/-- 2.2 cycle 5. -/
theorem test_bus_rel :
    after .uBusRel (driving 0xFF#8 State.reset) (fun s => (s.pin.toWord, s.trace)) = some (0x30FF#14, [0x200#12]) := by decide
/-- 2.2 cycle 2. -/
theorem test_stb_lo :
    after .uStbLo (driving 0xFB#8 State.reset) (fun s => (s.pin.toWord, s.outLatchLo, s.outLatchHi, s.trace)) =
      some (0x31FB#14, 0xFB#8, 0x00#8, [0x300#12]) := by decide
/-- 2.2 cycle 4. -/
theorem test_stb_hi :
    after .uStbHi (driving 0xFF#8 State.reset) (fun s => (s.pin.toWord, s.outLatchLo, s.outLatchHi, s.trace)) =
      some (0x31FF#14, 0x00#8, 0xFF#8, [0x400#12]) := by decide
/-- 2.2 cycle 2 of READ_SWITCHES. -/
theorem test_oe_lo_on :
    after .uOeLoOn { State.reset with pin := { State.reset.pin with busOut := 0xFF#8 } } (fun s => (s.pin.toWord, s.trace)) =
      some (0x20FF#14, [0x500#12]) := by decide
/-- R116: the block drives. -/
theorem test_oe_lo_on_contends :
    exec .uOeLoOn (driving 0x00#8 State.reset) = .fault .busContention := rfl
/-- 2.2 cycle 6 of READ_SWITCHES. -/
theorem test_oe_lo_off :
    after .uOeLoOff (lowOn 4 State.reset) (fun s => (s.pin.toWord, s.trace, s.settleLo)) = some (0x3000#14, [0x600#12], 0) := by decide
/-- 2.2 cycle 7 of READ_SWITCHES. -/
theorem test_oe_hi_on :
    after .uOeHiOn State.reset (fun s => (s.pin.toWord, s.trace)) = some (0x1000#14, [0x700#12]) := by decide
/-- R118: the other bank is enabled. -/
theorem test_oe_hi_on_contends :
    exec .uOeHiOn (lowOn 5 State.reset) = .fault .busContention := rfl
/-- 2.2 cycle 11 of READ_SWITCHES. -/
theorem test_oe_hi_off :
    after .uOeHiOff (highOn 4 State.reset) (fun s => (s.pin.toWord, s.trace, s.settleHi)) = some (0x3000#14, [0x800#12], 0) := by decide
/-- 2.2 cycle 5 of READ_SWITCHES: SW 0x102. -/
theorem test_samp_lo :
    after .uSampLo (lowOn 2 (withSw 0x102#10 State.reset)) (fun s => (s.rdLo, s.rdHi, s.trace)) = some (0xFD#8, 0x00#8, [0x900#12]) := by decide
/-- 2.2 cycle 10 of READ_SWITCHES: SW 0x102, IN_HI[7:2] 101010. -/
theorem test_samp_hi :
    after .uSampHi { highOn 2 (withSw 0x102#10 State.reset) with freeHi := 0b101010#6 } (fun s => (s.rdLo, s.rdHi, s.trace)) =
      some (0x00#8, 0xAA#8, [0xA00#12]) := by decide
/-- 2.2: BUS_WRITE(HI, 0xFC). -/
theorem test_bus_write_hi :
    after (.busWrite .hi 0xFC#8) State.reset (fun s => (s.pin.toWord, s.outLatchHi, s.outLatchLo, s.trace)) =
      some (0x31FC#14, 0xFC#8, 0x00#8, [0x1FC#12, 0x400#12]) := by decide
/-- R124. -/
theorem test_bus_write_lo :
    after (.busWrite .lo 0xFB#8) State.reset (fun s => (s.pin.toWord, s.outLatchHi, s.outLatchLo, s.trace)) =
      some (0x31FB#14, 0x00#8, 0xFB#8, [0x1FB#12, 0x300#12]) := by decide
/-- 2.2: BUS_READ(HI) with SW 0x300. -/
theorem test_bus_read_hi :
    after (.busRead .hi) (withSw 0x300#10 State.reset) (fun s => (s.ret, s.trace)) =
      some (.byte 0x00#8, [0x700#12, 0x000#12, 0x000#12, 0xA00#12, 0x800#12]) := by decide
/-- RS3: the low byte. -/
theorem test_bus_read_lo :
    after (.busRead .lo) (withSw 0x102#10 State.reset) (fun s => (s.ret, s.trace)) =
      some (.byte 0xFD#8, [0x500#12, 0x000#12, 0x000#12, 0x900#12, 0x600#12]) := by decide
/-- W3 and 2.2. -/
theorem test_write_lights_two :
    after (.writeLights 0x004#10) State.reset (fun s => (s.pin.toWord, s.outLatchLo, s.outLatchHi, s.trace)) =
      some (0x30FF#14, 0xFB#8, 0xFF#8, [0x1FB#12, 0x300#12, 0x1FF#12, 0x400#12, 0x200#12]) := by decide
/-- W7. -/
theorem test_write_lights_odd :
    after (.writeLights 0x2AA#10) State.reset (fun s => (s.outLatchLo, s.outLatchHi, s.lit 9, s.lit 8, s.lights)) =
      some (0x55#8, 0xFD#8, true, false, 0x000#10) := by decide
/-- RS3 and RS0. -/
theorem test_read_switches :
    after .readSwitches { withSw 0x102#10 State.reset with freeHi := 0b101010#6 } (fun s => (s.ret, s.rdLo, s.rdHi, s.trace)) =
      some (.set 0x102#10, 0xFD#8, 0xAA#8, [0x200#12, 0x500#12, 0x000#12, 0x000#12, 0x900#12, 0x600#12, 0x700#12, 0x000#12, 0x000#12,
        0xA00#12, 0x800#12]) := by decide
/-- RS7: the six unused lines do not show. -/
theorem test_read_switches_unused_lines :
    after .readSwitches { State.reset with freeHi := 0b111111#6 } (fun s => (s.ret, s.rdHi)) = some (.set 0x000#10, 0xFF#8) := by decide
/-- DB4. -/
theorem test_sample_press :
    after .sample { withSw 0x004#10 State.reset with lastRaw := 0x004#10, tick := 7#32 }
      (fun s => (s.events.map EventRec.toWord, s.deb, s.lastRaw, s.tick)) = some ([0xF2#37], 0x004#10, 0x004#10, 8#32) := by decide
/-- 2.5: the poll counter wraps. -/
theorem test_sample_wraps :
    after .sample { withSw 0x001#10 State.reset with lastRaw := 0x001#10, tick := 0xFFFFFFFF#32 }
      (fun s => (s.events.map EventRec.toWord, s.tick)) = some ([0x1FFFFFFFF0#37], 0#32) := by decide
/-- DB8. -/
theorem test_debounce_release :
    after (.debounce 2#4 0x000#10) { State.reset with deb := 0x004#10, tick := 7#32 }
      (fun s => (s.events.map EventRec.toWord, s.deb, s.lane)) = some ([0xE2#37], 0x000#10, 1#4) := by decide
/-- DB7. -/
theorem test_debounce_glitch :
    after (.debounce 2#4 0x004#10) { State.reset with deb := 0x004#10 } (fun s => (s.events, s.deb)) = some ([], 0x004#10) := by decide
/-- R144, DB4. -/
theorem test_emit :
    after (.emit 2#4 true) { State.reset with tick := 7#32 } (fun s => (s.events.map EventRec.toWord, s.deb)) =
      some ([0xF2#37], 0x000#10) := by decide
/-- G6. -/
theorem test_generate_rejects :
    after .generate { State.reset with nact := 3#4, rand := [2, 1, 200, 6, 77] } (fun s => (s.map, s.rand)) =
      some (#v[1#4, 0#4, 2#4, 3#4, 4#4, 5#4, 6#4, 7#4, 8#4, 9#4], [77]) := by decide
/-- G10. -/
theorem test_generate_ten :
    after .generate { State.reset with nact := 10#4, rand := [9, 7, 200, 13, 255, 4, 3, 1, 0] } (fun s => (s.map, s.rand)) =
      some (#v[2#4, 8#4, 1#4, 5#4, 4#4, 3#4, 6#4, 0#4, 7#4, 9#4], []) := by decide
/-- R161. -/
theorem test_init :
    after .gInit (scenario stIdle 0 0 0) (·.map) = some #v[0#4, 1#4, 2#4, 3#4, 4#4, 5#4, 6#4, 7#4, 8#4, 9#4] := by decide
/-- G12, its first exchange. -/
theorem test_swap :
    after (.gSwap 7#4 1#4) State.reset (·.map) = some #v[0#4, 7#4, 2#4, 3#4, 4#4, 5#4, 6#4, 1#4, 8#4, 9#4] := by decide
/-- G10 at i = 9. -/
theorem test_swap_itself :
    after (.gSwap 9#4 9#4) State.reset (·.map) = some #v[0#4, 1#4, 2#4, 3#4, 4#4, 5#4, 6#4, 7#4, 8#4, 9#4] := by decide
/-- R165: entries above the active ones do not count. -/
theorem test_check_identity :
    after .gCheck { State.reset with nact := 2#4, map := #v[0#4, 1#4, 3#4, 2#4, 4#4, 5#4, 6#4, 7#4, 8#4, 9#4] } (·.ret) = some (.bit true) := by decide
/-- R165. -/
theorem test_check_moved :
    after .gCheck (scenario stIdle 0 0 0) (·.ret) = some (.bit false) := by decide
/-- F20. -/
theorem test_noreq :
    exec .noreq (scenario stRecall 3 1 0x001) = .next (scenario stRecall 3 1 0x001) := rfl
/-- F14. -/
theorem test_start_accepted :
    after (.start 0b00#2) { State.reset with
        cfg := { Config.default with activeEasy := 3 }, outValid := true, outSuccess := true, outCount := 3#4, score := 3
        lights := 0x007#10, rand := [0, 0] } (fun s => (s.rstate, s.outcomeWord, s.score, s.lights, s.trace, s.map)) =
      some (stPreview, 0b000000#6, 3, 0x000#10, [0x1FF#12, 0x300#12, 0x1FF#12, 0x400#12, 0x200#12],
        #v[1#4, 2#4, 0#4, 3#4, 4#4, 5#4, 6#4, 7#4, 8#4, 9#4]) := rfl
/-- F15. -/
theorem test_start_refused :
    exec (.start 0b01#2) (scenario stPreview 1 0 0x004) = .next (scenario stPreview 1 0 0x004) := rfl
/-- SC9. -/
theorem test_session_reset :
    after .sessionReset { scenario stRecall 3 1 0x001 with score := 42 } shown =
      some (stRecall, 3#4, 1#4, 0x001#10, 0b000000#6, 0, []) := rfl
/-- F17. -/
theorem test_abort :
    after .abort { scenario stRecall 3 2 0x003 with score := 7 } shown = some (stIdle, 3#4, 2#4, 0x003#10, 0b000000#6, 7, []) := rfl
/-- B6, its second TICK. -/
theorem test_tick_batch :
    after (.tick 0x006#10) { scenario stRecall 3 0 0x000 with lastRaw := 0x006#10 }
      (fun s => (s.rstate, s.rcur, s.lights, s.deb, s.trace.length)) = some (stRecall, 2#4, 0x003#10, 0x006#10, 21) := by decide
/-- B7, its second TICK. -/
theorem test_tick_ends_round :
    after (.tick 0x003#10) { scenario stRecall 3 0 0x000 with lastRaw := 0x003#10 } (fun s => (s.rstate, s.outcomeWord, s.lane)) =
      some (stIdle, 0b100000#6, 0#4) := by decide
/-- F8. -/
theorem test_dispatch_last_preview :
    after (.dispatch (press 2)) (scenario stPreview 2 0 0x001) shown = some (stRecall, 3#4, 0#4, 0x000#10, 0b000000#6, 0,
      [0x1FD#12, 0x300#12, 0x1FF#12, 0x400#12, 0x200#12, 0x1FF#12, 0x300#12, 0x1FF#12, 0x400#12, 0x200#12]) := rfl
/-- F13. -/
theorem test_dispatch_last_recall :
    after (.dispatch (press 0)) (scenario stRecall 3 2 0x003) shown =
      some (stIdle, 3#4, 3#4, 0x007#10, 0b110011#6, 3, [0x1F8#12, 0x300#12, 0x1FF#12, 0x400#12, 0x200#12]) := rfl
/-- R196. -/
theorem test_auto_from_full_preview :
    after .auto (scenario stPreview 3 1 0x002) (fun s => (s.rstate, s.rcur, s.lights)) = some (stRecall, 0#4, 0x000#10) := by decide
/-- R196. -/
theorem test_auto_from_full_recall :
    after .auto (scenario stRecall 3 3 0x007) (fun s => (s.rstate, s.outcomeWord, s.score)) = some (stIdle, 0b110011#6, 3) := by decide
/-- F1. -/
theorem test_ev_drop :
    exec (.evDrop (press 4)) (scenario stIdle 0 0 0x000) = .next (scenario stIdle 0 0 0x000) := rfl
/-- F7. -/
theorem test_pv_release :
    exec (.pvRelease (release 0)) (scenario stPreview 1 0 0x004) = .next (scenario stPreview 1 0 0x004) := rfl
/-- F4. -/
theorem test_pv_ignore :
    exec (.pvIgnore (press 2)) (scenario stPreview 1 0 0x004) = .next (scenario stPreview 1 0 0x004) := rfl
/-- F3. -/
theorem test_pv_advance :
    after (.pvAdvance (press 0)) (scenario stPreview 0 0 0x000) shown =
      some (stPreview, 1#4, 0#4, 0x004#10, 0b000000#6, 0, [0x1FB#12, 0x300#12, 0x1FF#12, 0x400#12, 0x200#12]) := rfl
/-- F10. -/
theorem test_rc_release :
    exec (.rcRelease (release 1)) (scenario stRecall 3 1 0x001) = .next (scenario stRecall 3 1 0x001) := rfl
/-- F11, before its AUTO. -/
theorem test_rc_miss :
    after (.rcMiss (press 1)) (scenario stRecall 3 1 0x001) shown = some (stFailure, 3#4, 1#4, 0x001#10, 0b000000#6, 0, []) := rfl
/-- F9. -/
theorem test_rc_hit :
    after (.rcHit (press 1)) (scenario stRecall 3 0 0x000) shown =
      some (stRecall, 3#4, 1#4, 0x001#10, 0b000000#6, 0, [0x1FE#12, 0x300#12, 0x1FF#12, 0x400#12, 0x200#12]) := rfl
/-- F8, its second half. -/
theorem test_pv_done :
    after .pvDone (scenario stPreview 3 1 0x002) shown =
      some (stRecall, 3#4, 0#4, 0x000#10, 0b000000#6, 0, [0x1FF#12, 0x300#12, 0x1FF#12, 0x400#12, 0x200#12]) := rfl
/-- F13, its second third. -/
theorem test_rc_done :
    after .rcDone (scenario stRecall 3 3 0x007) shown = some (stSuccess, 3#4, 3#4, 0x007#10, 0b000000#6, 0, []) := rfl
/-- F13, its end. -/
theorem test_report_success :
    after .reportSuccess (scenario stSuccess 3 3 0x007) shown = some (stIdle, 3#4, 3#4, 0x007#10, 0b110011#6, 3, []) := rfl
/-- F11, its end. -/
theorem test_report_failure :
    after .reportFailure (scenario stFailure 3 1 0x001) shown = some (stIdle, 3#4, 1#4, 0x001#10, 0b100001#6, 1, []) := rfl
/-- SC3. -/
theorem test_record_saturates :
    after (.record true 10#4) { State.reset with score := 95 } (·.score) = some 99 := by decide
/-- SC12. -/
theorem test_record_no_wrap :
    after (.record true 10#4) { State.reset with cfg := { Config.default with scoreMax := 127 }, score := 120 } (·.score) = some 127 := by decide
/-- X1. -/
theorem test_reset :
    exec .reset { scenario stRecall 3 2 0x003 with score := 7, deb := 0x001#10, lastRaw := 0x001#10, tick := 500#32, outLatchLo := 0xFC#8, outLatchHi := 0xFF#8 } =
      .next { State.reset with outLatchLo := 0xFC#8, outLatchHi := 0xFF#8 } := rfl
/-- X3: after two cycles of WRITE_LIGHTS(0x004). -/
theorem test_reset_in_the_middle :
    (match step { State.reset with
        outLatchLo := 0xFF#8, outLatchHi := 0xFC#8
        inbox := [{ word := encode (.writeLights 0x004#10), sw := none, cut := some ⟨2, 0, 0⟩ }] } with
      | .next s => some (s.outLatchLo, s.outLatchHi, s.pin.toWord)
      | .fault _ => none
      | .refused _ => none) = some (0xFB#8, 0xFC#8, 0x3000#14) := by decide
/-- G12: the map its words draw, the safety terms' own. -/
theorem test_drawn_map : drawnMap 7 [17, 100, 5, 44, 3, 2, 1] ownPositions =
    #v[0#4, 7#4, 6#4, 3#4, 4#4, 5#4, 2#4, 1#4, 8#4, 9#4] := by decide
/-- R94 (b): a reserved `RSTATE` code is refused by a step, of RESET too, and without a command. -/
theorem test_reserved_state :
    step { scenario 5 0 0 0 with inbox := [commandOf .reset] } = .refused (.reservedRState 5) ∧
      step (scenario 7 0 0 0) = .refused (.reservedRState 7) := ⟨rfl, rfl⟩
/-- R235 (b): an active size of 1 is refused by a step of NOREQ, and by a START of another level. -/
theorem test_illegal_configuration :
    [Instr.noreq, .start 0b10#2].map (fun i => step { State.reset with
      cfg := { Config.default with activeEasy := 1 }, inbox := [commandOf i] }) =
      [.refused (.activeSize 1), .refused (.activeSize 1)] := rfl

/-- What a step leaves of the pin trace, the RAND stream and `RSTATE` for a reset after n micro-operations and four words. -/
def cutAfter (i : Instr) (n : Nat) (s : State) : Option (List TraceEntry × List Byte × RState) :=
  match step { s with inbox := [{ word := encode i, sw := none, cut := some ⟨n, 4, 0⟩ }] } with
  | .next t => some (t.trace, t.rand, t.rstate)
  | .fault _ => none
  | .refused _ => none
/-- R69, R141: how many events a poll of one press has driven for a reset after n micro-operations, and one event let through
at the moment of the EMIT. READ_SWITCHES takes 11 (2.2). -/
theorem test_reset_events :
    [10, 11, 12].map (fun n => (eventsDriven ⟨n, 0, 0⟩ (emitCycle (.tick 0x004#10) Config.default) [press 2]).length) = [0, 0, 1] ∧
      (eventsDriven ⟨11, 0, 1⟩ (emitCycle .sample Config.default) [press 2]).length = 1 := by decide
/-- R237 (c), R127: with the high bank enabled a TICK contends at its second micro-operation; until then a reset wins. -/
theorem test_reset_before_contention :
    [0, 1, 2].map (fun n => cutAfter (.tick 0x000#10) n (highOn 0 State.reset)) =
      [some ([], [], 0#3), some ([0x200#12], [], 0#3), none] := by decide
/-- R237 (c), R181: a START that would contend has taken the words of its GENERATE, as many of them as the reset let it. -/
theorem test_reset_before_contention_start :
    [0, 1].map (fun n => cutAfter (.start 0b00#2) n { highOn 0 State.reset with rand := [1, 2, 3, 4, 5, 6] }) =
      [some ([], [5, 6], 0#3), none] := rfl
def twoPresses : State := { scenario stRecall 3 0 0x000 with
  lastRaw := 0x006#10, map := #v[2#4, 0#4, 10#4, 3#4, 4#4, 5#4, 6#4, 7#4, 8#4, 9#4] }
/-- R237 (c): a poll of two presses whose second meets an entry of 10; the first press's light has been sent by then. -/
theorem test_reset_before_refusal :
    (stopPoint (.tick 0x006#10) twoPresses).trace.length = 16 ∧ (stopPoint (.tick 0x006#10) twoPresses).lights = 0x001#10 ∧
      exec (.tick 0x006#10) twoPresses = .refused .mapEntry := ⟨by decide, by decide, rfl⟩
/-- P1: TAP 1 from released switches is four steps, words 0x8002 0x8002 0x8000 0x8000. -/
theorem test_stimulus_tap : (expandStim 0x000#10 (.tap 1)).map encodeStepWord =
    [some 0x8002#16, some 0x8002#16, some 0x8000#16, some 0x8000#16] := by decide

/-! ### Witnesses: the hypotheses of each statement are met, each clause at a boundary value -/

theorem witness_NopLetsOneCyclePass :
    State.reset.pin.drivers ≤ 1 ∧ (lowOn 0 State.reset).pin.drivers ≤ 1 ∧ (driving 0x00#8 State.reset).pin.drivers ≤ 1 := by
  decide

theorem witness_BusDirectionOperations :
    inputsOff State.reset ∧ ¬ inputsOff (lowOn 0 State.reset) ∧ ¬ inputsOff (highOn 0 State.reset) ∧
      ¬ ((highOn 0 (driving 0xFF#8 State.reset)).pin.oeLoN = false ∧
        (highOn 0 (driving 0xFF#8 State.reset)).pin.oeHiN = false) := by decide

/-- The settled low bank, the settled high bank at its first settled cycle, the driven bus and the bus of nobody. -/
theorem witness_StrobesLatchTheBus :
    (lowOn 2 State.reset).pin.drivers ≤ 1 ∧ (highOn 2 State.reset).pin.drivers ≤ 1 ∧
      (driving 0xFF#8 State.reset).pin.drivers ≤ 1 ∧ State.reset.pin.drivers ≤ 1 ∧ resolveBus (lowOn 2 State.reset) = .lowBank ∧
      resolveBus (lowOn 1 State.reset) = .any ∧ resolveBus (highOn 2 State.reset) = .highBank := by decide

theorem witness_SamplesTakeTheBus :
    (lowOn 2 State.reset).pin.drivers ≤ 1 ∧ (highOn 1 State.reset).pin.drivers ≤ 1 := by decide

theorem witness_OutputEnableConnectsOrContends :
    (State.reset.pin.busDir = false ∧ State.reset.pin.oeHiN = true ∧ State.reset.pin.oeLoN = true) ∧
      (driving 0x00#8 State.reset).pin.busDir = true ∧ (highOn 0 State.reset).pin.oeHiN = false ∧
      (lowOn 0 State.reset).pin.oeLoN = false := by decide

theorem witness_OutputDisableDisconnects :
    ¬ ((lowOn 3 State.reset).pin.busDir = true ∧ (lowOn 3 State.reset).pin.oeHiN = false) ∧
      ¬ ((highOn 3 State.reset).pin.busDir = true ∧ (highOn 3 State.reset).pin.oeLoN = false) := by decide

theorem witness_ContentionFaults :
    2 ≤ (lowOn 0 (driving 0x00#8 State.reset)).pin.drivers ∧
      ((highOn 0 (lowOn 0 State.reset)).pin.oeLoN = false ∧ (highOn 0 (lowOn 0 State.reset)).pin.oeHiN = false) ∧
      ((highOn 0 (driving 0x00#8 State.reset)).pin.busDir = true ∧
        (highOn 0 (driving 0x00#8 State.reset)).pin.oeHiN = false) ∧
      ((lowOn 0 (driving 0x00#8 State.reset)).pin.busDir = true ∧
        (lowOn 0 (driving 0x00#8 State.reset)).pin.oeLoN = false) ∧
      (highOn 0 State.reset).pin.oeHiN = false ∧ (lowOn 0 State.reset).pin.oeLoN = false ∧
      (¬ inputsOff (highOn 0 State.reset) ∧ (highOn 0 State.reset).map[(highOn 0 State.reset).pcur.toNat]? = some 0#4 ∧
        (highOn 0 State.reset).map[(press 9).button.toNat]? = some 9#4 ∧ (9#4).toNat ≤ 9) := by decide

theorem witness_BusWriteLatchesOneByte : inputsOff State.reset ∧ inputsOff (driving 0xFF#8 State.reset) := by decide

theorem witness_BusReadReturnsInvertedSwitches :
    inputsOff State.reset ∧ State.reset.pin.busDir = false ∧ 2 ≤ State.reset.cfg.settleCycles ∧
      State.reset.cfg.settleCycles = 2 := by decide

theorem witness_WriteLightsShowsPattern : inputsOff State.reset ∧ inputsOff (driving 0xFF#8 State.reset) := by decide

theorem witness_ReadSwitchesReturnsSwitches :
    inputsOff (driving 0x00#8 State.reset) ∧ 2 ≤ (driving 0x00#8 State.reset).cfg.settleCycles := by decide

/-- Neutral with the default settle count, and with a sequencer built without any. -/
theorem witness_EntryPointsStayNeutral :
    State.reset.pin.neutral = true ∧
      ({ State.reset with cfg := { Config.default with settleCycles := 0 } } : State).pin.neutral = true := by decide

theorem witness_SampleDebouncesAndReports : inputsOff State.reset ∧ 2 ≤ State.reset.cfg.settleCycles := by decide

/-- Lane 9 that fires, and lane 0 that does not. -/
theorem witness_DebounceConfirmsLevel :
    (9#4).toNat ≤ 9 ∧ laneFires 0x000#10 0x200#10 0x200#10 (9#4).toNat = true ∧
      (0#4).toNat ≤ 9 ∧ laneFires 0x000#10 0x000#10 0x001#10 (0#4).toNat = false := by decide

theorem witness_EmitAppendsOneRecord : (9#4).toNat ≤ 9 := by decide

/-- SAMPLE answers, and leaves the input latches disabled. -/
theorem sample_answers {s : State} (h : inputsOff s) (hn : 2 ≤ s.cfg.settleCycles) :
    ∃ t, exec .sample s = .next t ∧ inputsOff t ∧ 2 ≤ t.cfg.settleCycles :=
  ⟨{ afterPoll s.freeHi (Config.freeHigh s.freeCtr) (s.freeCtr + 1) s with
      ret := .events (pollEvents s.deb s.lastRaw s.sw s.tick) },
    by simp only [exec, execSample, sampleOp_next h hn, andThen_next]; rfl, h, hn⟩

theorem witness_OnePollGlitchIsSilent :
    ∃ t u, (9#4).toNat ≤ 9 ∧ inputsOff State.reset ∧ 2 ≤ State.reset.cfg.settleCycles ∧
      State.reset.lastRaw.getLsbD 9 = State.reset.deb.getLsbD 9 ∧
      (0x200#10).getLsbD 9 ≠ State.reset.deb.getLsbD 9 ∧ (0x000#10).getLsbD 9 = State.reset.deb.getLsbD 9 ∧
      exec .sample (withSw 0x200#10 State.reset) = .next t ∧ exec .sample (withSw 0x000#10 t) = .next u := by
  obtain ⟨t, ht, h1, h2⟩ := sample_answers (s := withSw 0x200#10 State.reset) (by decide) (by decide)
  obtain ⟨u, hu, -⟩ := sample_answers (s := withSw 0x000#10 t) h1 h2
  exact ⟨t, u, by decide, by decide, by decide, by decide, by decide, by decide, ht, hu⟩

/-- Lane 9, not held on after the second poll, and held on for two more while another lane changes. -/
theorem witness_TwoPollPressIsReportedOnce :
    (9#4).toNat ≤ 9 ∧ inputsOff State.reset ∧ 2 ≤ State.reset.cfg.settleCycles ∧ State.reset.deb.getLsbD 9 = false ∧
      State.reset.lastRaw.getLsbD 9 = false ∧ (0x200#10).getLsbD 9 = true ∧ (0x201#10).getLsbD 9 = true ∧
      (∀ c ∈ ([] : List Pattern), c.getLsbD 9 = true) ∧ ∀ c ∈ ([0x200#10, 0x3FF#10] : List Pattern), c.getLsbD 9 = true := by
  decide

theorem witness_SwapExchangesEntries : (9#4).toNat < 10 ∧ (0#4).toNat < 10 := by decide

theorem witness_MappingInitAndCheck :
    ({ State.reset with nact := 10#4 } : State).nact.toNat ≤ 10 ∧
      10 < ({ State.reset with nact := 11#4 } : State).nact.toNat := by decide

/-- A state with N active positions and words lined up. -/
def drawing (n : Index) (words : List Byte) : State := { State.reset with nact := n, rand := words }

theorem witness_GenerateLeavesLegalMapping :
    ∃ t u, 2 ≤ (drawing 2 [0]).nact.toNat ∧ (drawing 2 [0]).nact.toNat ≤ 10 ∧
      2 ≤ (drawing 10 [9, 7, 200, 13, 255, 4, 3, 1, 0]).nact.toNat ∧
      (drawing 10 [9, 7, 200, 13, 255, 4, 3, 1, 0]).nact.toNat ≤ 10 ∧
      exec .generate (drawing 2 [0]) = .next t ∧
      exec .generate (drawing 10 [9, 7, 200, 13, 255, 4, 3, 1, 0]) = .next u :=
  ⟨_, _, by decide, by decide, by decide, by decide, rfl, rfl⟩

theorem witness_GenerateEndsOnGoodWords :
    (2 ≤ (drawing 2 [0]).nact.toNat ∧ (drawing 2 [0]).nact.toNat ≤ 10 ∧
      goodAttempt (drawing 2 [0]).nact.toNat (drawing 2 [0]).rand) ∧
      2 ≤ (drawing 10 [9, 7, 200, 13, 255, 4, 3, 1, 0]).nact.toNat ∧
      (drawing 10 [9, 7, 200, 13, 255, 4, 3, 1, 0]).nact.toNat ≤ 10 ∧
      goodAttempt (drawing 10 [9, 7, 200, 13, 255, 4, 3, 1, 0]).nact.toNat
        (drawing 10 [9, 7, 200, 13, 255, 4, 3, 1, 0]).rand := by decide

/-- G9's first attempt, and the words of an identity over ten positions. -/
theorem witness_GenerateRejectsIdentity :
    ∃ t, 2 ≤ (drawing 2 [1, 0]).nact.toNat ∧ (drawing 2 [1, 0]).nact.toNat ≤ 10 ∧
      identityAttempt (drawing 2 [1, 0]).nact.toNat (drawing 2 [1, 0]).rand ∧
      identityAttempt 10 [9, 8, 7, 6, 5, 4, 3, 2, 1] ∧
      exec .generate { drawing 2 [1, 0] with
        rand := (drawing 2 [1, 0]).rand.drop ((drawing 2 [1, 0]).nact.toNat - 1)
        randPos := (drawing 2 [1, 0]).randPos + ((drawing 2 [1, 0]).nact.toNat - 1) } = .next t :=
  ⟨_, by decide, by decide, by decide, by decide, rfl⟩

theorem witness_GenerateOfOnePositionHangs :
    (drawing 1 [0]).nact.toNat ≤ 1 ∧ State.reset.nact.toNat ≤ 1 := by decide

/-- The largest active size: Hard of the defaults, with the words of G10. -/
theorem witness_StartBeginsRound_ten :
    ∃ s : State, s.rstate = stIdle ∧ activeSize s.cfg 0b10#2 = some 10 ∧ inputsOff s ∧ goodAttempt 10 s.rand :=
  ⟨drawing 0 [9, 7, 200, 13, 255, 4, 3, 1, 0], by decide⟩

/-- The smallest active size: Easy of program P5, with its second word. -/
theorem witness_StartBeginsRound_two :
    ∃ s : State, s.rstate = stIdle ∧ activeSize s.cfg 0b00#2 = some 2 ∧ inputsOff s ∧ goodAttempt 2 s.rand :=
  ⟨{ drawing 0 [4] with cfg := { Config.default with activeEasy := 2 } }, by decide⟩

theorem witness_StartRefusedChangesNothing :
    (scenario stPreview 1 0 0x004#10).rstate.toNat ≤ 4 ∧ (scenario stPreview 1 0 0x004#10).rstate ≠ stIdle ∧
      (scenario stFailure 3 1 0).rstate.toNat ≤ 4 ∧ (scenario stFailure 3 1 0).rstate ≠ stIdle ∧
      State.reset.rstate.toNat ≤ 4 ∧ (0b11#2 : BitVec 2) = 3#2 := by decide

theorem witness_PreviewAdvanceLightsMapping :
    inputsOff (scenario stPreview 9 0 0x000#10) ∧ (scenario stPreview 9 0 0x000#10).map[(9#4).toNat]? = some 9#4 ∧
      (9#4).toNat ≤ 9 := by decide

theorem witness_RecallHitAddsLight :
    inputsOff (scenario stRecall 3 0 0x000#10) ∧ (scenario stRecall 3 0 0x000#10).map[(press 1).button.toNat]? = some 0#4 ∧
      (scenario stRecall 3 9 0x000#10).map[(press 9).button.toNat]? = some 9#4 := by decide

theorem witness_PreviewDoneExtinguishes : inputsOff (scenario stPreview 3 1 0x002#10) := by decide

/-- FAILURE, the last code AUTO takes, with the operation it selects; and a state in which nothing matches. -/
theorem witness_AutoRunsToQuiet :
    ∃ t, ((scenario stFailure 3 1 0x001#10).rstate.toNat ≤ 4 ∧ inputsOff (scenario stFailure 3 1 0x001#10) ∧
      selectAuto (autoKey (scenario stFailure 3 1 0x001#10)) = some .reportFailure) ∧
      exec AutoOp.reportFailure.instr (scenario stFailure 3 1 0x001#10) = .next t ∧
      (scenario stPreview 1 0 0x004#10).rstate.toNat ≤ 4 ∧ inputsOff (scenario stPreview 1 0 0x004#10) ∧
      selectAuto (autoKey (scenario stPreview 1 0 0x004#10)) = none :=
  ⟨_, by decide, rfl, by decide⟩

/-- One event for each of the seven operations. -/
theorem witness_DispatchPerformsSelected :
    (comparator (scenario stIdle 0 0 0) (press 4) false ∧ selectEvent 0b00010#5 = some .drop) ∧
      (comparator (scenario stPreview 1 0 0) (release 0) false ∧ selectEvent 0b00100#5 = some .pvRelease) ∧
      (comparator (scenario stPreview 1 0 0) (press 2) false ∧ selectEvent 0b00110#5 = some .pvIgnore) ∧
      (comparator (scenario stPreview 1 0 0) (press 1) true ∧ selectEvent 0b00111#5 = some .pvAdvance) ∧
      (comparator (scenario stRecall 3 1 0) (release 1) false ∧ selectEvent 0b01000#5 = some .rcRelease) ∧
      (comparator (scenario stRecall 3 1 0) (press 9) false ∧ selectEvent 0b01010#5 = some .rcMiss) ∧
      (comparator (scenario stRecall 3 0 0) (press 1) true ∧ selectEvent 0b01011#5 = some .rcHit) :=
  ⟨⟨.inl (by decide), by decide⟩, ⟨.inr (.inl (by decide)), by decide⟩, ⟨.inr (.inl (by decide)), by decide⟩,
    ⟨.inr (.inl (by decide)), by decide⟩, ⟨.inr (.inr ⟨rfl, 0#4, by decide⟩), by decide⟩,
    ⟨.inr (.inr ⟨rfl, 9#4, by decide⟩), by decide⟩, ⟨.inr (.inr ⟨rfl, 0#4, by decide⟩), by decide⟩⟩

theorem witness_DispatchOfIgnoredEvent :
    (press 9).button.toNat ≤ 9 ∧ (scenario stIdle 0 0 0).rstate = stIdle ∧
      ((scenario stPreview 1 0 0).rstate = stPreview ∧ (scenario stPreview 1 0 0).pcur ≠ (scenario stPreview 1 0 0).nact ∧
        (press 9).button ≠ (scenario stPreview 1 0 0).pcur ∧ (release 0).tr = false) ∧
      ((scenario stRecall 3 1 0).rstate = stRecall ∧ (scenario stRecall 3 1 0).rcur ≠ (scenario stRecall 3 1 0).nact ∧
        (scenario stRecall 3 1 0).map[(release 0).button.toNat]? = some 2#4) := by decide

/-- F3. -/
theorem witness_DispatchOfExpectedPress :
    ∃ s : State, inputsOff s ∧ s.rstate = stPreview ∧ s.pcur.toNat < s.nact.toNat ∧ s.nact.toNat ≤ 10 ∧ 2 ≤ s.nact.toNat ∧
      (press 0).tr = true ∧ (press 0).button = s.pcur ∧ s.map[s.pcur.toNat]? = some 2#4 ∧ (2#4).toNat ≤ 9 ∧
      s.pcur.toNat + 1 < s.nact.toNat :=
  ⟨scenario stPreview 0 0 0, by decide⟩

/-- F8, the last press. -/
theorem witness_DispatchOfExpectedPress_last :
    ∃ s : State, inputsOff s ∧ s.rstate = stPreview ∧ s.pcur.toNat < s.nact.toNat ∧ s.nact.toNat ≤ 10 ∧ 2 ≤ s.nact.toNat ∧
      (press 2).tr = true ∧ (press 2).button = s.pcur ∧ s.map[s.pcur.toNat]? = some 1#4 ∧ (1#4).toNat ≤ 9 ∧
      s.pcur.toNat + 1 = s.nact.toNat :=
  ⟨scenario stPreview 2 0 0, by decide⟩

/-- F9. -/
theorem witness_DispatchOfRecallPress :
    ∃ s : State, inputsOff s ∧ s.rstate = stRecall ∧ s.rcur.toNat < s.nact.toNat ∧ s.nact.toNat ≤ 10 ∧
      (press 1).tr = true ∧ s.map[(press 1).button.toNat]? = some 0#4 ∧ (0#4).toNat ≤ 9 ∧ 0#4 = s.rcur ∧
      s.rcur.toNat + 1 < s.nact.toNat :=
  ⟨scenario stRecall 3 0 0, by decide⟩

/-- F13, the last press. -/
theorem witness_DispatchOfRecallPress_last :
    ∃ s : State, inputsOff s ∧ s.rstate = stRecall ∧ s.rcur.toNat < s.nact.toNat ∧ s.nact.toNat ≤ 10 ∧
      (press 0).tr = true ∧ s.map[(press 0).button.toNat]? = some 2#4 ∧ (2#4).toNat ≤ 9 ∧ 2#4 = s.rcur ∧
      s.rcur.toNat + 1 = s.nact.toNat :=
  ⟨scenario stRecall 3 2 0x003#10, by decide⟩

/-- F11, the miss. -/
theorem witness_DispatchOfRecallPress_miss :
    ∃ s : State, inputsOff s ∧ s.rstate = stRecall ∧ s.rcur.toNat < s.nact.toNat ∧ s.nact.toNat ≤ 10 ∧
      (press 1).tr = true ∧ s.map[(press 1).button.toNat]? = some 0#4 ∧ (0#4).toNat ≤ 9 ∧ 0#4 ≠ s.rcur :=
  ⟨scenario stRecall 3 1 0x001#10, by decide⟩

/-- The scenario at the beginning of RECALL is a step boundary. -/
theorem boundary_scenario : Boundary (scenario stRecall 3 0 0) :=
  ⟨rfl, by decide, by decide, by decide, by decide, by decide, by decide, rfl, rfl, by decide⟩

/-- The source's scenario: its success, and its failures at the second and at the first press. -/
theorem witness_RecallLaw :
    Boundary (scenario stRecall 3 0 0) ∧ ((scenario stRecall 3 0 0).rstate = stRecall ∧ (scenario stRecall 3 0 0).rcur = 0#4 ∧
      [press 1, press 2].length + 1 = (scenario stRecall 3 0 0).nact.toNat) ∧
      (∀ e ∈ [press 1, press 2] ++ [press 0], e.tr = true ∧ e.button.toNat ≤ 9) ∧
      (∀ k (hk : k < [press 1, press 2].length),
        (scenario stRecall 3 0 0).map[([press 1, press 2][k]).button.toNat]? = some (BitVec.ofNat 4 k)) ∧
      (scenario stRecall 3 0 0).map[(press 0).button.toNat]? = some (BitVec.ofNat 4 [press 1, press 2].length) ∧
      (scenario stRecall 3 0 0).map[(press 0).button.toNat]? ≠ some (BitVec.ofNat 4 [press 1].length) ∧
      (scenario stRecall 3 0 0).map[(press 0).button.toNat]? ≠ some (BitVec.ofNat 4 ([] : List EventRec).length) :=
  ⟨boundary_scenario, by decide, by decide, by decide, by decide, by decide, by decide⟩

/-- B6: a poll that reports two presses, both dispatched. -/
theorem witness_TickSamplesThenDispatches :
    ∃ t u, exec .sample (withSw 0x006#10 { scenario stRecall 3 0 0 with lastRaw := 0x006#10 }) = .next t ∧
      dispatchList t.events t = .next u ∧ t.events.length = 2 :=
  ⟨_, _, rfl, rfl, rfl⟩

/-- IDLE, and both states of a round at the ends of their cursors. -/
theorem witness_TickCompletesAtBoundary :
    Boundary State.reset ∧ Boundary (scenario stPreview 0 0 0) ∧ Boundary (scenario stPreview 2 0 0) ∧
      Boundary (scenario stRecall 3 2 0) :=
  ⟨⟨rfl, by decide, by decide, by decide, by decide, by decide, by decide, rfl, rfl, by decide⟩,
    ⟨rfl, by decide, by decide, by decide, by decide, by decide, by decide, rfl, rfl, by decide⟩,
    ⟨rfl, by decide, by decide, by decide, by decide, by decide, by decide, rfl, rfl, by decide⟩,
    ⟨rfl, by decide, by decide, by decide, by decide, by decide, by decide, rfl, rfl, by decide⟩⟩

/-- Every lane toggles: the poll confirms nothing. -/
theorem witness_QuietTickLeavesController :
    inputsOff State.reset ∧ 2 ≤ State.reset.cfg.settleCycles ∧
      ∀ i, i < 10 → laneFires State.reset.deb State.reset.lastRaw 0x3FF#10 i = false := by decide

/-- B7 ends with Failure. -/
theorem witness_OutcomeCountWithinActive_failure :
    ∃ t, Boundary { scenario stRecall 3 0 0 with lastRaw := 0x003#10 } ∧
      inRound { scenario stRecall 3 0 0 with lastRaw := 0x003#10 } ∧
      exec (.tick 0x003#10) { scenario stRecall 3 0 0 with lastRaw := 0x003#10 } = .next t ∧ t.rstate = stIdle :=
  ⟨_, ⟨rfl, by decide, by decide, by decide, by decide, by decide, by decide, rfl, rfl, by decide⟩, .inr rfl, rfl, rfl⟩

/-- The press of F13 ends with Success. -/
theorem witness_OutcomeCountWithinActive_success :
    ∃ t, Boundary { scenario stRecall 3 2 0x003#10 with lastRaw := 0x001#10 } ∧
      inRound { scenario stRecall 3 2 0x003#10 with lastRaw := 0x001#10 } ∧
      exec (.tick 0x001#10) { scenario stRecall 3 2 0x003#10 with lastRaw := 0x001#10 } = .next t ∧ t.rstate = stIdle :=
  ⟨_, ⟨rfl, by decide, by decide, by decide, by decide, by decide, by decide, rfl, rfl, by decide⟩, .inr rfl, rfl, rfl⟩

/-- A reset lined up after n micro-operations of a WRITE_LIGHTS. -/
def cutWrite (n : Nat) : State :=
  { State.reset with
    outLatchLo := 0xFF#8, outLatchHi := 0xFC#8
    inbox := [{ word := encode (.writeLights 0x004#10), sw := none, cut := some ⟨n, 0, 0⟩ }] }

/-- The hypotheses, and what the two latches hold for a reset after 0 to 5 cycles, at the ends of the clauses. -/
theorem witness_ResetInTheMiddleOfWriteLights :
    Admitted (cutWrite 2) ∧ inputsOff (cutWrite 2) ∧ ¬ inputsOff (highOn 0 (cutWrite 0)) ∧ [0, 1, 2, 3, 4, 5, 9].map (fun n => match step (cutWrite n) with
      | .next t => some (t.outLatchLo, t.outLatchHi)
      | .fault _ => none
      | .refused _ => none) =
      [some (0xFF#8, 0xFC#8), some (0xFF#8, 0xFC#8), some (0xFB#8, 0xFC#8), some (0xFB#8, 0xFC#8), some (0xFB#8, 0xFF#8),
        some (0xFB#8, 0xFF#8), some (0xFB#8, 0xFF#8)] := by decide

/-- Codes 5 and 7, the two terminal states, and active sizes 1 and 11. -/
theorem witness_StatesOutsideTheRulesRefused :
    5 ≤ (scenario 5 0 0 0).rstate.toNat ∧ 5 ≤ (scenario 7 0 0 0).rstate.toNat ∧ (scenario 3 0 0 0).rstate = stSuccess ∧
      (scenario 4 0 0 0).rstate = stFailure ∧ activeSize { Config.default with activeEasy := 1 } 0b00#2 = some 1 ∧
      activeSize { Config.default with activeHard := 11 } 0b10#2 = some 11 ∧ (press 9).button.toNat ≤ 9 ∧
      ¬ legalSizes { Config.default with activeMedium := 1 } ∧ ¬ legalSizes { Config.default with activeHard := 11 } := by
  decide

/-- A state with an entry of 10, as no run leaves it. -/
def badEntry : State := { scenario stRecall 0 0 0 with map := #v[10#4, 0#4, 1#4, 3#4, 4#4, 5#4, 6#4, 7#4, 8#4, 9#4] }

theorem witness_IndicesBeyondBoardRefused :
    10 ≤ (10#4).toNat ∧ 10 ≤ (15#4).toNat ∧ (press 10).button = 10#4 ∧ (scenario stPreview 10 0 0).pcur = 10#4 ∧
      badEntry.map[badEntry.pcur.toNat]? = some 10#4 ∧ badEntry.map[(press 0).button.toNat]? = some 10#4 ∧
      badEntry.rstate = stRecall := by decide

theorem witness_OnlyTheseMoveRState :
    ∃ t, exec .rcDone (scenario stRecall 3 3 0) = .next t ∧ t.rstate ≠ (scenario stRecall 3 3 0).rstate :=
  ⟨_, rfl, by decide⟩

theorem witness_ScoreNeverFalls :
    ∃ t, (scenario stSuccess 3 3 0).score ≤ (scenario stSuccess 3 3 0).cfg.scoreMax ∧
      exec .reportSuccess (scenario stSuccess 3 3 0) = .next t ∧ Instr.reportSuccess ≠ .sessionReset ∧
      Instr.reportSuccess ≠ .reset :=
  ⟨_, by decide, rfl, by decide, by decide⟩

theorem witness_OnlyStrobesChangeLatches :
    ∃ t, exec (.writeLights 0x004#10) State.reset = .next t ∧
      (t.outLatchLo ≠ State.reset.outLatchLo ∨ t.outLatchHi ≠ State.reset.outLatchHi) :=
  ⟨_, rfl, by decide⟩

theorem witness_StepKeepsBoundary :
    ∃ t, Boundary { scenario stRecall 3 0 0 with inbox := [commandOf .abort] } ∧
      (∀ c rest, ({ scenario stRecall 3 0 0 with inbox := [commandOf .abort] } : State).inbox = c :: rest →
        ∀ i, decode c.word = .ok i → environmentStep i = true) ∧
      step { scenario stRecall 3 0 0 with inbox := [commandOf .abort] } = .next t := by
  refine ⟨_, ⟨rfl, by decide, by decide, by decide, by decide, by decide, by decide, rfl, rfl, by decide⟩, ?_, rfl⟩
  intro c rest h i hd
  cases h
  have hw : decode (commandOf .abort).word = .ok .abort := rfl
  rw [hw] at hd
  cases hd
  rfl

theorem witness_StepKeepsSound :
    ∃ t, Sound { scenario stRecall 3 0 0 with inbox := [commandOf (.gSwap 9#4 0#4)] } ∧
      step { scenario stRecall 3 0 0 with inbox := [commandOf (.gSwap 9#4 0#4)] } = .next t :=
  ⟨_, by decide, rfl⟩

theorem witness_StepRunsDecodedCommand :
    Admitted State.reset ∧ decode (commandOf .gInit).word = .ok .gInit ∧ (commandOf .gInit).cut = none ∧
      decode (packCommand 1#3 11#5 0#40) = .error .reservedMicroCode ∧ State.reset.inbox = [] := by decide

theorem witness_DecodeEncodeRoundTrip :
    (Instr.gSwap 9#4 9#4).wellFormed = true ∧ (Instr.record true 10#4).wellFormed = true ∧
      (Instr.tick 0x3FF#10).wellFormed = true ∧ (Instr.rcHit ⟨0xFFFFFFFF#32, true, 9#4⟩).wellFormed = true ∧
      (Instr.gSwap 0#4 9#4).indicesOnBoard = true ∧ (Instr.gSwap 0#4 10#4).indicesOnBoard = false := by decide

theorem witness_ReservedCodesRejected :
    11 ≤ (11#4).toNat ∧ 20 ≤ (20#5).toNat ∧ 12 ≤ (12#5).toNat ∧ (19#5).toNat < 20 ∧ 10 ≤ (10#4).toNat ∧
      (2#4).toNat ≤ 2 ∧ (4#4).toNat = 4 := by decide

theorem witness_StepWordsReadBack :
    environmentStep (.tick 0x3FF#10) = true ∧ environmentStep .sample = false ∧
      decodeStepWord 0x83FF#16 = some (.tick 0x3FF#10) := by decide

end Sys2Proof.Tests
end

section
/-! SUPPORT and PROOFS. The state family (10_state.md): which operations move `RSTATE` and the output latches, the values
after reset, and the step boundary of R48 kept by every step of the environment. -/

namespace Sys2Proof.Machine

/-! ### What an operation leaves of `RSTATE` and of the output latches -/

/-- Pin activity leaves `RSTATE` alone. -/
theorem PinsOnly.rstate {s t : State} (h : PinsOnly s t) : t.rstate = s.rstate := by
  rw [h.eq]

/-- Pin activity neither reads nor writes the returned value. -/
theorem PinsOnly.setRet {s t : State} (h : PinsOnly s t) (r : Ret) : PinsOnly { s with ret := r } { t with ret := r } := by
  rw [h.eq]
  rfl

/-- The operations of the signaling family (40_signaling.md): they act on the pins and may return what they read. -/
def signaling : Instr → Bool
  | .uNop | .uBusOut _ | .uBusRel | .uStbLo | .uStbHi | .uOeLoOn | .uOeLoOff | .uOeHiOn | .uOeHiOff | .uSampLo | .uSampHi
  | .busWrite _ _ | .busRead _ | .writeLights _ | .readSwitches => true
  | _ => false

/-- The operations of the signaling family that strobe an output latch (R114, R115, R124, R126). -/
def strobing : Instr → Bool
  | .uStbLo | .uStbHi | .busWrite _ _ | .writeLights _ => true
  | _ => false

/-- A signaling operation that strobes nothing changes what pin activity changes, and no output latch; the returned
value apart. -/
theorem exec_reading {i : Instr} {s t : State} (hi : signaling i = true) (hn : strobing i = false)
    (h : exec i s = .next t) : ReadOnly { s with ret := t.ret } t := by
  have of_readOnly {f : State → Res} (hf : Keeps ReadOnly f) (e : f s = .next t) : ReadOnly { s with ret := t.ret } t := by
    obtain ⟨hp, hl⟩ := hf s t e
    exact ⟨hp.setRet t.ret, hl⟩
  cases i
  case uNop => exact of_readOnly microNop_readOnly h
  case uBusOut d => exact of_readOnly (microBusOut_readOnly d) h
  case uBusRel => exact of_readOnly microBusRel_readOnly h
  case uOeLoOn => exact of_readOnly microOeLoOn_readOnly h
  case uOeLoOff => exact of_readOnly microOeLoOff_readOnly h
  case uOeHiOn => exact of_readOnly microOeHiOn_readOnly h
  case uOeHiOff => exact of_readOnly microOeHiOff_readOnly h
  case uSampLo => exact of_readOnly microSampLo_readOnly h
  case uSampHi => exact of_readOnly microSampHi_readOnly h
  case busRead bank =>
    obtain ⟨u, hu, ht⟩ := andThen_eq_next.mp h
    cases ht
    obtain ⟨hp, hl⟩ := busReadSeq_readOnly bank s u hu
    exact ⟨hp.setRet (.byte (bankByte bank u)), hl⟩
  case readSwitches =>
    obtain ⟨u, hu, ht⟩ := andThen_eq_next.mp h
    cases ht
    obtain ⟨hp, hl⟩ := readSwitchesSeq_readOnly s u hu
    exact ⟨hp.setRet (.set (switchSet u)), hl⟩
  case uStbLo | uStbHi | busWrite | writeLights => cases hn
  all_goals cases hi

/-- A strobing operation changes what pin activity changes. -/
theorem exec_strobing {i : Instr} {s t : State} (hi : strobing i = true) (h : exec i s = .next t) : PinsOnly s t := by
  cases i
  case uStbLo => exact microStbLo_pinsOnly s t h
  case uStbHi => exact microStbHi_pinsOnly s t h
  case busWrite bank v => exact busWriteSeq_pinsOnly bank v s t h
  case writeLights p => exact writeLightsSeq_pinsOnly p s t h
  all_goals cases hi

/-- The signaling family does not move `RSTATE`. -/
theorem exec_signaling_rstate {i : Instr} {s t : State} (hi : signaling i = true) (h : exec i s = .next t) :
    t.rstate = s.rstate := by
  cases hn : strobing i with
  | true => exact (exec_strobing hn h).rstate
  | false => exact (exec_reading hi hn h).1.rstate

/-- G_SWAP writes `MAP` only (R164). -/
theorem swapEntries_frame {i j : Nat} {s t : State} (h : swapEntries i j s = .next t) : t = { s with map := t.map } := by
  unfold swapEntries at h
  split at h <;> cases h
  rfl

/-- The operations that sample and debounce, generate, record or change nothing: they light no light and do not move
`RSTATE`. -/
def bookkeeping : Instr → Bool
  | .sample | .debounce _ _ | .emit _ _ | .generate | .gInit | .gSwap _ _ | .gCheck | .noreq | .sessionReset | .evDrop _
  | .pvRelease _ | .pvIgnore _ | .rcRelease _ | .record _ _ => true
  | _ => false

/-- They leave `RSTATE` and both output latches as they were. -/
theorem exec_bookkeeping {i : Instr} {s t : State} (hi : bookkeeping i = true) (h : exec i s = .next t) :
    t.rstate = s.rstate ∧ SameLatches s t := by
  cases i
  case sample =>
    obtain ⟨v, hv, ht⟩ := andThen_eq_next.mp h
    obtain ⟨u, hu, hp⟩ := andThen_eq_next.mp hv
    obtain ⟨hpins, hlatch⟩ := readSwitchesSeq_readOnly s u hu
    rw [pollSet_eq] at hp
    cases hp
    cases ht
    exact ⟨hpins.rstate, hlatch⟩
  case debounce k raw =>
    simp only [exec, execDebounce, debounceLane_eq] at h
    split at h <;> cases h
    exact ⟨rfl, rfl, rfl⟩
  case emit k b =>
    simp only [exec, execEmit] at h
    split at h <;> cases h
    exact ⟨rfl, rfl, rfl⟩
  case generate =>
    rw [attempts_frame h]
    exact ⟨rfl, rfl, rfl⟩
  case gSwap k j =>
    rw [swapEntries_frame h]
    exact ⟨rfl, rfl, rfl⟩
  case gCheck =>
    simp only [exec, execGCheck] at h
    split at h <;> cases h
    exact ⟨rfl, rfl, rfl⟩
  case gInit | noreq | sessionReset | evDrop | pvRelease | pvIgnore | rcRelease | record =>
    cases h
    exact ⟨rfl, rfl, rfl⟩
  all_goals cases hi

/-- Lighting a light does not move `RSTATE` (R198). -/
theorem lightWith_rstate {base : Pattern} {l : Index} {s t : State} (h : lightWith base l s = .next t) :
    t.rstate = s.rstate := by
  obtain ⟨p, hp⟩ := lightWith_pins h
  exact hp.rstate

/-- PV_ADVANCE lights a light and moves its cursor; `RSTATE` is left to AUTO (R186). -/
theorem execPvAdvance_rstate {e : EventRec} {s t : State} (h : execPvAdvance e s = .next t) : t.rstate = s.rstate := by
  unfold execPvAdvance at h
  split at h
  · obtain ⟨u, hu, ht⟩ := andThen_eq_next.mp h
    have hr := lightWith_rstate hu
    cases ht
    exact hr
  · cases h

/-- RC_HIT adds a light and moves its cursor; `RSTATE` is left to AUTO (R190). -/
theorem execRcHit_rstate {e : EventRec} {s t : State} (h : execRcHit e s = .next t) : t.rstate = s.rstate := by
  unfold execRcHit at h
  split at h
  · obtain ⟨u, hu, ht⟩ := andThen_eq_next.mp h
    have hr := lightWith_rstate hu
    cases ht
    exact hr
  · cases h

/-- Settles O50: an operation the statement does not name acts on the pins, keeps books, or moves a cursor. -/
theorem onlyTheseMoveRState : Obligations.OnlyTheseMoveRState := by
  intro i s t h hne
  cases i
  case start | abort | reset | pvDone | rcDone | reportSuccess | reportFailure | rcMiss | tick | dispatch | auto => simp
  case pvAdvance e => exact absurd (execPvAdvance_rstate (e := e) h) hne
  case rcHit e => exact absurd (execRcHit_rstate h) hne
  case sample | debounce | emit | generate | gInit | gSwap | gCheck | noreq | sessionReset | evDrop | pvRelease |
      pvIgnore | rcRelease | record => exact absurd (exec_bookkeeping rfl h).1 hne
  all_goals exact absurd (exec_signaling_rstate rfl h) hne

/-- Settles O52: an operation the statement does not name reads the bus only, keeps books, or writes registers of the
controller. -/
theorem onlyStrobesChangeLatches : Obligations.OnlyStrobesChangeLatches := by
  intro i s t h hne
  have unless_same (hs : SameLatches s t) : False := hne.elim (absurd hs.1) (absurd hs.2)
  cases i
  case uStbLo | uStbHi | busWrite | writeLights | start | tick | dispatch | auto | pvAdvance | rcHit | pvDone => simp
  case abort | reset | rcDone | reportSuccess | reportFailure | rcMiss =>
    cases h
    exact (unless_same ⟨rfl, rfl⟩).elim
  case sample | debounce | emit | generate | gInit | gSwap | gCheck | noreq | sessionReset | evDrop | pvRelease |
      pvIgnore | rcRelease | record => exact (unless_same (exec_bookkeeping rfl h).2).elim
  all_goals exact (unless_same (exec_reading rfl rfl h).2).elim

/-! ### The step boundary, taken apart by the state of the controller (R48) -/

/-- What R48 asks whatever `RSTATE` holds, but for `LANE`. -/
def AtRest (s : State) : Prop :=
  s.pin.neutral = true ∧ s.score ≤ s.cfg.scoreMax ∧ s.outCount.toNat ≤ 10 ∧ s.ustep = 0

/-- The mapping of a round is dealt: 2 to 10 active positions, and a legal mapping of them (R167). -/
def Dealt (s : State) : Prop := 2 ≤ s.nact.toNat ∧ s.nact.toNat ≤ 10 ∧ LegalMapping s.map s.nact.toNat

theorem Dealt.two_le {s : State} (h : Dealt s) : 2 ≤ s.nact.toNat := h.1

theorem Dealt.le_ten {s : State} (h : Dealt s) : s.nact.toNat ≤ 10 := h.2.1

/-- The controller waits for an event: it is idle, or in a round whose cursor is not full (R48). -/
def Waiting (s : State) : Prop :=
  s.rstate = stIdle ∨
  (s.rstate = stPreview ∧ Dealt s ∧ s.pcur.toNat < s.nact.toNat) ∨
  (s.rstate = stRecall ∧ Dealt s ∧ s.pcur = s.nact ∧ s.rcur.toNat < s.nact.toNat)

/-- What an event may leave for AUTO: a cursor may have become full, or the round may have failed (R184, R196). -/
def BeforeAuto (s : State) : Prop :=
  s.rstate = stIdle ∨
  (s.rstate = stPreview ∧ Dealt s ∧ s.pcur.toNat ≤ s.nact.toNat) ∨
  (s.rstate = stRecall ∧ Dealt s ∧ s.pcur = s.nact ∧ s.rcur.toNat ≤ s.nact.toNat) ∨
  (s.rstate = stFailure ∧ s.rcur.toNat ≤ 10)

/-- R48, read off the state of the controller. -/
theorem boundary_iff {s : State} : Boundary s ↔ s.lane = 0#4 ∧ AtRest s ∧ Waiting s := by
  constructor
  · rintro ⟨hpin, hstate, hnact, hpcur, hrcur, hscore, hcount, hlane, hustep, hmap⟩
    refine ⟨hlane, ⟨hpin, hscore, hcount, hustep⟩, ?_⟩
    have dealt (h : inRound s) : Dealt s := ⟨(hnact h).1, (hnact h).2, hmap h⟩
    obtain h | h | h := hstate
    · exact .inl h
    · exact .inr (.inl ⟨h, dealt (.inl h), hpcur h⟩)
    · exact .inr (.inr ⟨h, dealt (.inr h), hrcur h⟩)
  · rintro ⟨hlane, ⟨hpin, hscore, hcount, hustep⟩, h | ⟨h, ⟨h2, h10, hmap⟩, hcur⟩ | ⟨h, ⟨h2, h10, hmap⟩, hcur⟩⟩
    · have hp : s.rstate ≠ stPreview := by rw [h]; decide
      have hr : s.rstate ≠ stRecall := by rw [h]; decide
      have hin : ¬ inRound s := not_or.mpr ⟨hp, hr⟩
      exact ⟨hpin, .inl h, (absurd · hin), (absurd · hp), (absurd · hr), hscore, hcount, hlane, hustep, (absurd · hin)⟩
    · have hr : s.rstate ≠ stRecall := by rw [h]; decide
      exact ⟨hpin, .inr (.inl h), fun _ => ⟨h2, h10⟩, fun _ => hcur, (absurd · hr), hscore, hcount, hlane, hustep,
        fun _ => hmap⟩
    · have hp : s.rstate ≠ stPreview := by rw [h]; decide
      exact ⟨hpin, .inr (.inr h), fun _ => ⟨h2, h10⟩, (absurd · hp), fun _ => hcur, hscore, hcount, hlane, hustep,
        fun _ => hmap⟩

theorem neutral_iff {p : PinCtl} : p.neutral = true ↔
    p.oeHiN = true ∧ p.oeLoN = true ∧ p.stbHi = false ∧ p.stbLo = false ∧ p.busDir = false := by
  simp [PinCtl.neutral, and_assoc]

theorem AtRest.inputsOff {s : State} (h : AtRest s) : inputsOff s := by
  obtain ⟨hhi, hlo, -⟩ := neutral_iff.mp h.1
  exact ⟨hlo, hhi⟩

/-- Lights leave the pins neutral again (R129). -/
theorem AtRest.afterLight {s : State} (h : AtRest s) (p : Pattern) : AtRest (afterLight p s) := by
  obtain ⟨hpin, hscore, hcount, -⟩ := h
  obtain ⟨hhi, hlo, -⟩ := neutral_iff.mp hpin
  exact ⟨neutral_iff.mpr ⟨hhi, hlo, rfl, rfl, rfl⟩, hscore, hcount, rfl⟩

/-- The end of a round reports a count of the board and keeps the score under its ceiling (R220, R238). -/
theorem AtRest.endRound {s : State} (h : AtRest s) (success : Bool) {count : Index} (hc : count.toNat ≤ 10) :
    AtRest (endRound success count s) := by
  obtain ⟨hpin, -, -, hustep⟩ := h
  exact ⟨hpin, Nat.min_le_right _ _, hc, hustep⟩

/-- Pin activity that ends neutral leaves a state at rest as it was. -/
theorem AtRest.of_pinsOnly {s t : State} (h : AtRest s) (ht : PinsOnly s t) (hpin : t.pin.neutral = true)
    (hustep : t.ustep = 0) : AtRest t := by
  obtain ⟨-, hscore, hcount, -⟩ := h
  refine ⟨hpin, ?_, ?_, hustep⟩
  · rw [ht.eq]; exact hscore
  · rw [ht.eq]; exact hcount

theorem Waiting.of_pinsOnly {s t : State} (h : Waiting s) (ht : PinsOnly s t) : Waiting t := by
  have hoff : Waiting (offPins t) := by
    rw [show offPins t = offPins s from ht]
    exact h
  exact hoff

theorem Waiting.beforeAuto {s : State} (h : Waiting s) : BeforeAuto s := by
  obtain h | ⟨h, hd, hc⟩ | ⟨h, hd, hp, hc⟩ := h
  · exact .inl h
  · exact .inr (.inl ⟨h, hd, hc.le⟩)
  · exact .inr (.inr (.inl ⟨h, hd, hp, hc.le⟩))

/-- Every position of the board has a light of the board (R25, R167). -/
theorem Dealt.mapAt {s : State} (h : Dealt s) {i : Index} (hi : i.toNat ≤ 9) :
    ∃ l, mapAt s i = some l ∧ l.toNat ≤ 9 := by
  obtain ⟨-, -, ⟨hbelow, -⟩, -⟩ := h
  have hlt : i.toNat < 10 := by omega
  have hl : (s.map[i.toNat]).toNat < 10 := hbelow ⟨i.toNat, hlt⟩ hlt
  exact ⟨s.map[i.toNat], Vector.getElem?_eq_getElem hlt, by omega⟩

/-- A cursor below `NACT` moves on without wrapping (R46). -/
theorem cursor_succ {c n : Index} (h : c.toNat < n.toNat) : (c + 1#4).toNat = c.toNat + 1 := by
  have := n.isLt
  rw [BitVec.toNat_add, BitVec.toNat_ofNat]
  omega

/-! ### The controller's operations at a step boundary -/

/-- AUTO ends, and ends in a state that waits: a full cursor goes on to RECALL or to the end of the round, and a failed
round is reported (R196). -/
theorem autoOp_settles {s : State} (hr : AtRest s) (hb : BeforeAuto s) :
    ∃ t, autoOp s = .next t ∧ AtRest t ∧ Waiting t := by
  obtain h | ⟨h, hd, hc⟩ | ⟨h, hd, hp, hc⟩ | ⟨h, hc⟩ := hb
  · exact ⟨s, autoOp_idle h, hr, .inl h⟩
  · by_cases hfull : s.pcur = s.nact
    · have h2 := hd.two_le
      have hn : s.nact ≠ 0#4 := by rintro e; simp [e] at h2
      exact ⟨_, autoOp_previewDone hr.inputsOff h hfull hn, hr.afterLight 0x000#10,
        .inr (.inr ⟨rfl, hd, hfull, show (0#4).toNat < s.nact.toNat by simp; omega⟩)⟩
    · have hlt : s.pcur.toNat ≠ s.nact.toNat := fun e => hfull (BitVec.eq_of_toNat_eq e)
      exact ⟨s, autoOp_preview h hfull, hr, .inr (.inl ⟨h, hd, by omega⟩)⟩
  · by_cases hfull : s.rcur = s.nact
    · exact ⟨_, autoLoop_recallDone h hfull, hr.endRound true hd.le_ten, .inl rfl⟩
    · have hlt : s.rcur.toNat ≠ s.nact.toNat := fun e => hfull (BitVec.eq_of_toNat_eq e)
      exact ⟨s, autoOp_recall h hfull, hr, .inr (.inr ⟨h, hd, hp, by omega⟩)⟩
  · exact ⟨_, autoLoop_failure h, hr.endRound false hc, .inl rfl⟩

theorem execPvAdvance_next (e : EventRec) {s : State} {l : Index} (h : inputsOff s) (hm : mapAt s s.pcur = some l)
    (hl : l.toNat ≤ 9) :
    execPvAdvance e s = .next { afterLight (0x000#10 ||| 1#10 <<< l.toNat) s with pcur := s.pcur + 1#4 } := by
  simp only [execPvAdvance, hm, lightWith_next h hl, andThen_next]
  rfl

theorem execRcHit_next {e : EventRec} {s : State} {l : Index} (h : inputsOff s) (hm : mapAt s e.button = some l)
    (hl : l.toNat ≤ 9) :
    execRcHit e s = .next { afterLight (s.lights ||| 1#10 <<< l.toNat) s with rcur := s.rcur + 1#4 } := by
  simp only [execRcHit, hm, lightWith_next h hl, andThen_next]
  rfl

/-- In PREVIEW an event leaves the state as it is, or advances the cursor by one (R186 to R188). -/
theorem performEvent_preview (e : EventRec) (hit : Bool) {s : State} (hr : AtRest s) (h : s.rstate = stPreview)
    (hd : Dealt s) (hc : s.pcur.toNat < s.nact.toNat) :
    ∃ u, performEvent (if !e.tr then .pvRelease else if hit then .pvAdvance else .pvIgnore) e s = .next u ∧
      AtRest u ∧ BeforeAuto u := by
  have same : AtRest s ∧ BeforeAuto s := ⟨hr, .inr (.inl ⟨h, hd, hc.le⟩)⟩
  cases e.tr with
  | false => exact ⟨s, rfl, same⟩
  | true =>
    cases hit with
    | false => exact ⟨s, rfl, same⟩
    | true =>
      have h10 := hd.le_ten
      obtain ⟨l, hm, hl⟩ := hd.mapAt (i := s.pcur) (by omega)
      refine ⟨_, execPvAdvance_next e hr.inputsOff hm hl, hr.afterLight _, .inr (.inl ⟨h, hd, ?_⟩)⟩
      show (s.pcur + 1#4).toNat ≤ s.nact.toNat
      rw [cursor_succ hc]
      exact hc

/-- In RECALL an event leaves the state as it is, advances the cursor by one, or fails the round (R190 to R192). -/
theorem performEvent_recall {e : EventRec} (he : e.button.toNat ≤ 9) (hit : Bool) {s : State} (hr : AtRest s)
    (h : s.rstate = stRecall) (hd : Dealt s) (hp : s.pcur = s.nact) (hc : s.rcur.toNat < s.nact.toNat) :
    ∃ u, performEvent (if !e.tr then .rcRelease else if hit then .rcHit else .rcMiss) e s = .next u ∧
      AtRest u ∧ BeforeAuto u := by
  cases e.tr with
  | false => exact ⟨s, rfl, hr, .inr (.inr (.inl ⟨h, hd, hp, hc.le⟩))⟩
  | true =>
    have h10 := hd.le_ten
    cases hit with
    | false => exact ⟨_, rfl, hr, .inr (.inr (.inr ⟨rfl, show s.rcur.toNat ≤ 10 by omega⟩))⟩
    | true =>
      obtain ⟨l, hm, hl⟩ := hd.mapAt he
      refine ⟨_, execRcHit_next hr.inputsOff hm hl, hr.afterLight _, .inr (.inr (.inl ⟨h, hd, hp, ?_⟩))⟩
      show (s.rcur + 1#4).toNat ≤ s.nact.toNat
      rw [cursor_succ hc]
      exact hc

/-- DISPATCH of an event of the board ends in a state that waits again (R184). -/
theorem dispatchOp_settles {e : EventRec} (he : e.button.toNat ≤ 9) {s : State} (hr : AtRest s) (hw : Waiting s) :
    ∃ t, dispatchOp e s = .next t ∧ AtRest t ∧ Waiting t := by
  have then_auto {hit : Bool} {op : EvOp} (hh : hitBit s e = .ok hit) (hs : selectEvent (eventKey s e hit) = some op)
      (hu : ∃ u, performEvent op e s = .next u ∧ AtRest u ∧ BeforeAuto u) :
      ∃ t, dispatchOp e s = .next t ∧ AtRest t ∧ Waiting t := by
    obtain ⟨u, hu, hur, hub⟩ := hu
    rw [dispatchOp_selected he hh hs, hu, andThen_next]
    exact autoOp_settles hur hub
  have hb := hw.beforeAuto
  obtain h | ⟨h, hd, hc⟩ | ⟨h, hd, hp, hc⟩ := hw
  · exact then_auto (hitBit_idle e h) (selectEvent_idle e h _) ⟨s, rfl, hr, hb⟩
  · exact then_auto (hitBit_preview e h) (selectEvent_preview e h _) (performEvent_preview e _ hr h hd hc)
  · obtain ⟨l, hm, hl⟩ := hd.mapAt he
    exact then_auto (hitBit_recall h hm hl) (selectEvent_recall e h _) (performEvent_recall he _ hr h hd hp hc)

/-- The event loop of TICK ends, whatever `LANE` holds on the way (R183). -/
theorem dispatchAll_settles {es : List EventRec} (hes : ∀ e ∈ es, e.button.toNat ≤ 9) {s : State} (hr : AtRest s)
    (hw : Waiting s) : ∃ t, dispatchAll es s = .next t ∧ AtRest t ∧ Waiting t := by
  induction es generalizing s with
  | nil => exact ⟨s, rfl, hr, hw⟩
  | cons e rest ih =>
    obtain ⟨u, hu, hur, huw⟩ := dispatchOp_settles (hes e (by simp)) (s := { s with lane := e.button }) hr hw
    rw [dispatchAll, hu, andThen_next]
    exact ih (fun x hx => hes x (by simp [hx])) hur huw

/-- SAMPLE leaves the controller as it was and gives events of the board (R141, R144). -/
theorem sampleOp_settles {s : State} (hr : AtRest s) (hw : Waiting s) :
    ∃ t, sampleOp s = .next t ∧ AtRest t ∧ Waiting t ∧ ∀ e ∈ t.events, e.button.toNat ≤ 9 := by
  obtain ⟨raw, t, ht, -, hpins, hpin, hustep⟩ := sampleOp_any hr.inputsOff
  obtain ⟨hhi, hlo, hshi, hslo, -⟩ := neutral_iff.mp hr.1
  have hneutral : t.pin.neutral = true := by
    rw [hpin]
    exact neutral_iff.mpr ⟨hhi, hlo, hshi, hslo, rfl⟩
  have hevents : t.events = pollEvents s.deb s.lastRaw raw s.tick := by rw [hpins.eq]
  refine ⟨t, ht, AtRest.of_pinsOnly (by exact hr) hpins hneutral hustep, Waiting.of_pinsOnly (by exact hw) hpins, ?_⟩
  rw [hevents]
  exact fun e he => (mem_pollEvents he).1

/-- TICK from a step boundary ends at a step boundary, whatever the switches and the settle count (R183, R48). -/
theorem execTick_boundary (sw : Pattern) {s : State} (hb : Boundary s) : ∃ t, execTick sw s = .next t ∧ Boundary t := by
  obtain ⟨-, hr, hw⟩ := boundary_iff.mp hb
  obtain ⟨u, hu, hur, huw, hes⟩ := sampleOp_settles (s := { s with sw := sw }) hr hw
  obtain ⟨v, hv, hvr, hvw⟩ := dispatchAll_settles hes hur huw
  refine ⟨{ v with lane := 0#4 }, ?_, boundary_iff.mpr ⟨rfl, hvr, hvw⟩⟩
  rw [execTick, hu, andThen_next, hv, andThen_next]

/-- What START can do: nothing, or begin a round with a legal active size (R181, R182). -/
theorem execStart_eq_next {d : BitVec 2} {s t : State} (h : execStart d s = .next t) :
    t = s ∨ ∃ n, 2 ≤ n ∧ n ≤ 10 ∧ startRound d n s = .next t := by
  unfold execStart at h
  split at h
  · cases h
  split at h
  · split at h
    · next n _ =>
      split at h
      · next hn => exact .inr ⟨n, hn.1, hn.2, h⟩
      · cases h
    · cases h; exact .inl rfl
  · cases h; exact .inl rfl

theorem toNat_activeCount {n : Nat} (h : n ≤ 10) : (BitVec.ofNat 4 n).toNat = n := by
  rw [BitVec.toNat_ofNat]
  omega

/-- A round begins with a legal mapping, dark lights and cursors 0, in PREVIEW (R181, R240). -/
theorem startRound_eq_next {d : BitVec 2} {n : Nat} {s t : State} (hi : inputsOff s) (h2 : 2 ≤ n) (h10 : n ≤ 10)
    (h : startRound d n s = .next t) :
    ∃ m ws k, LegalMapping m n ∧
      t = { afterLight 0x000#10 (beginRound { s with
              diff := d, nact := BitVec.ofNat 4 n, map := m, rand := ws, randPos := k }) with rstate := stPreview } := by
  have hn := toNat_activeCount h10
  have hpositive : 1 ≤ (BitVec.ofNat 4 n).toNat := by omega
  have hnotFull : 0#4 ≠ BitVec.ofNat 4 n := by
    intro e
    simp [← e] at hpositive
  obtain ⟨u, hu, ht⟩ := andThen_eq_next.mp h
  obtain ⟨-, hlegal, hframe⟩ := attempts_spec (by exact hpositive) hu
  rw [hframe, lightOp_next (by exact hi), andThen_next, autoOp_preview rfl (by exact hnotFull)] at ht
  exact ⟨u.map, u.rand, u.randPos, hn ▸ hlegal, (Host.Outcome.next.inj ht).symm⟩

/-- START from a step boundary that ends at all ends at one (R181, R182). -/
theorem execStart_boundary {d : BitVec 2} {s t : State} (hb : Boundary s) (h : execStart d s = .next t) :
    Boundary t := by
  obtain rfl | ⟨n, h2, h10, hstart⟩ := execStart_eq_next h
  · exact hb
  · obtain ⟨hlane, hr, -⟩ := boundary_iff.mp hb
    obtain ⟨m, ws, k, hlegal, rfl⟩ := startRound_eq_next hr.inputsOff h2 h10 hstart
    have hn := toNat_activeCount h10
    obtain ⟨hpin, hscore, -, hustep⟩ := hr
    have hbegun : AtRest (beginRound { s with
        diff := d, nact := BitVec.ofNat 4 n, map := m, rand := ws, randPos := k }) :=
      ⟨hpin, hscore, (by decide : (0#4).toNat ≤ 10), hustep⟩
    refine boundary_iff.mpr ⟨hlane, hbegun.afterLight 0x000#10, .inr (.inl ⟨rfl, ?_, ?_⟩)⟩
    · show 2 ≤ (BitVec.ofNat 4 n).toNat ∧ (BitVec.ofNat 4 n).toNat ≤ 10 ∧ LegalMapping m (BitVec.ofNat 4 n).toNat
      rw [hn]
      exact ⟨h2, h10, hlegal⟩
    · show (0#4).toNat < (BitVec.ofNat 4 n).toNat
      rw [hn, BitVec.toNat_ofNat]
      omega

/-! ### The state after reset -/

/-- Whatever came before, RESET ends at a step boundary (R261, R47, R48); the record of events is not of the block. -/
theorem boundary_resetBlock (s : State) (es : List EventRec) : Boundary { resetBlock s with events := es } :=
  boundary_iff.mpr ⟨rfl, ⟨rfl, Nat.zero_le _, (by decide : (0#4).toNat ≤ 10), rfl⟩, .inl rfl⟩

/-- Settles O46, register by register. -/
theorem resetValues : Obligations.ResetValues :=
  ⟨rfl, rfl, rfl, rfl, rfl, fun i => identityMap_get i.val i.isLt, rfl, rfl, rfl, rfl, rfl, rfl, rfl, rfl, rfl, rfl, rfl,
    rfl⟩

/-- Settles O54: the state after reset is one that RESET leaves, and its map is the identity. -/
theorem resetIsBoundaryAndSound : Obligations.ResetIsBoundaryAndSound :=
  ⟨boundary_resetBlock State.reset [], by decide, rfl, rfl, identityMap_permutes le_rfl, Nat.zero_le _, by decide⟩

/-! ### A step of the environment -/

/-- R48 over one step of the environment performed to its end. -/
theorem exec_boundary {i : Instr} {s t : State} (hi : environmentStep i = true) (hb : Boundary s)
    (h : exec i s = .next t) : Boundary t := by
  cases i
  case reset => cases h; exact boundary_resetBlock s s.events
  case noreq => cases h; exact hb
  case start d => exact execStart_boundary hb h
  case sessionReset =>
    cases h
    obtain ⟨hlane, ⟨hpin, -, hcount, hustep⟩, hw⟩ := boundary_iff.mp hb
    exact boundary_iff.mpr ⟨hlane, ⟨hpin, Nat.zero_le _, hcount, hustep⟩, hw⟩
  case abort =>
    cases h
    obtain ⟨hlane, ⟨hpin, hscore, -, hustep⟩, -⟩ := boundary_iff.mp hb
    exact boundary_iff.mpr ⟨hlane, ⟨hpin, hscore, (by decide : (0#4).toNat ≤ 10), hustep⟩, .inl rfl⟩
  case tick sw =>
    obtain ⟨u, hu, hub⟩ := execTick_boundary sw hb
    have e : execTick sw s = .next t := h
    rw [hu] at e
    cases e
    exact hub
  all_goals cases hi

/-- A step cut short by a reset ends as RESET leaves it, whatever the step was (R264). -/
theorem perform_boundary {cut : Option Cut} {i : Instr} {s t : State} (hi : environmentStep i = true) (hb : Boundary s)
    (h : perform cut i s = .next t) : Boundary t := by
  cases cut with
  | none => exact exec_boundary hi hb h
  | some c =>
    obtain ⟨_, _, _, es, v, -, rfl⟩ := cutShort_eq_next h
    exact boundary_resetBlock v es

/-- Settles O53: with no command lined up nothing changes; a command that decodes is performed to its end or cut short,
from a state that differs from the boundary state in nothing R48 speaks of. -/
theorem stepKeepsBoundary : Obligations.StepKeepsBoundary := by
  intro s t hb henv h
  obtain ⟨hadm, -⟩ := refuseState_eq_next.mp h
  cases hin : s.inbox with
  | nil =>
    rw [step_nil hadm hin] at h
    cases h
    exact hb
  | cons c rest =>
    rw [step_cons hadm hin, runCommand] at h
    cases hdec : decode c.word with
    | error why => simp [hdec] at h
    | ok i =>
      simp only [hdec] at h
      have hbegin : Boundary (beginStep c rest s) := hb
      exact perform_boundary (henv c rest hin i hdec) hbegin h

end Sys2Proof.Machine
end

section
/-! SUPPORT and PROOFS. The memory family (20_memory.md): an index of 10 to 15, of a button, a lane or an entry of `MAP`,
has no entry, no light and no place on the board (R62, R93). -/

namespace Sys2Proof.Machine

/-! ### An index above 9 -/

theorem onBoard_eq_true_iff {i : Index} : onBoard i = true ↔ i.toNat ≤ 9 := by
  simp [onBoard]

theorem onBoard_beyond {i : Index} (h : 10 ≤ i.toNat) : ¬ onBoard i = true := by
  rw [onBoard_eq_true_iff]
  omega

theorem mapAt_beyond (s : State) {i : Index} (h : 10 ≤ i.toNat) : mapAt s i = none :=
  Vector.getElem?_eq_none h

/-- An index at which `MAP` has an entry is one of the board (R62). -/
theorem onBoard_of_mapAt {s : State} {i l : Index} (h : mapAt s i = some l) : onBoard i = true := by
  obtain ⟨hi, -⟩ := Vector.getElem?_eq_some_iff.mp (show s.map[i.toNat]? = some l from h)
  exact onBoard_eq_true_iff.mpr (by omega)

theorem onehot_beyond {i : Index} (h : 10 ≤ i.toNat) : onehot i = none :=
  if_neg (by omega)

/-- There is no light for an entry above 9 (R93). -/
theorem lightWith_refused (base : Pattern) {l : Index} (s : State) (h : 10 ≤ l.toNat) :
    lightWith base l s = .refused .mapEntry := by
  rw [lightWith, onehot_beyond h]

/-- In RECALL the comparator reads the entry of the button, and refuses one above 9 (R85). -/
theorem hitBit_entry_refused {e : EventRec} {s : State} {l : Index} (hr : s.rstate = stRecall)
    (hm : mapAt s e.button = some l) (hl : 10 ≤ l.toNat) : hitBit s e = .error .mapEntry := by
  have hp : s.rstate ≠ stPreview := by rw [hr]; decide
  simp only [hitBit, if_neg hp, if_pos hr, hm, if_neg (show ¬ l.toNat ≤ 9 by omega)]

/-! ### The operations that refuse it -/

theorem execDebounce_refused {i : Index} (raw : Pattern) (s : State) (h : 10 ≤ i.toNat) :
    execDebounce i raw s = .refused .buttonIndex :=
  if_neg (onBoard_beyond h)

theorem execEmit_refused {i : Index} (b : Bool) (s : State) (h : 10 ≤ i.toNat) :
    execEmit i b s = .refused .buttonIndex :=
  if_neg (onBoard_beyond h)

theorem execGSwap_refused {i j : Index} (s : State) (h : 10 ≤ i.toNat ∨ 10 ≤ j.toNat) :
    execGSwap i j s = .refused .mapIndex :=
  swapEntries_refused (by omega)

theorem dispatchOp_button_refused {e : EventRec} (s : State) (h : 10 ≤ e.button.toNat) :
    dispatchOp e s = .refused .buttonIndex :=
  if_neg (onBoard_beyond h)

/-- DISPATCH stops where its comparator does (R184). -/
theorem dispatchOp_hit_refused {e : EventRec} {s : State} {r : Refusal} (hb : onBoard e.button = true)
    (hh : hitBit s e = .error r) : dispatchOp e s = .refused r := by
  rw [dispatchOp, if_pos hb, hh]

theorem execPvAdvance_cursor_refused (e : EventRec) {s : State} (h : 10 ≤ s.pcur.toNat) :
    execPvAdvance e s = .refused .mapIndex := by
  rw [execPvAdvance, mapAt_beyond s h]

theorem execPvAdvance_entry_refused (e : EventRec) {s : State} {l : Index} (hm : mapAt s s.pcur = some l)
    (hl : 10 ≤ l.toNat) : execPvAdvance e s = .refused .mapEntry := by
  simp only [execPvAdvance, hm, lightWith_refused _ s hl, andThen_refused]

theorem execRcHit_button_refused {e : EventRec} (s : State) (h : 10 ≤ e.button.toNat) :
    execRcHit e s = .refused .mapIndex := by
  rw [execRcHit, mapAt_beyond s h]

theorem execRcHit_entry_refused {e : EventRec} {s : State} {l : Index} (hm : mapAt s e.button = some l)
    (hl : 10 ≤ l.toNat) : execRcHit e s = .refused .mapEntry := by
  simp only [execRcHit, hm, lightWith_refused _ s hl, andThen_refused]

/-- Settles O49: the refusals of each operation, by the index or the entry it meets. -/
theorem indicesBeyondBoardRefused : Obligations.IndicesBeyondBoardRefused := by
  intro e i j b raw s hi
  refine ⟨execDebounce_refused raw s hi, execEmit_refused b s hi, execGSwap_refused s (.inl hi),
    execGSwap_refused s (.inr hi), ?button, ?cursor, fun hentry => execPvAdvance_entry_refused e hentry hi, ?entry⟩
  case button =>
    rintro rfl
    exact ⟨dispatchOp_button_refused s hi, execRcHit_button_refused s hi⟩
  case cursor =>
    rintro rfl
    exact execPvAdvance_cursor_refused e hi
  case entry =>
    intro hentry
    exact ⟨execRcHit_entry_refused hentry hi, fun hrecall =>
      dispatchOp_hit_refused (onBoard_of_mapAt hentry) (hitBit_entry_refused hrecall hentry hi)⟩

end Sys2Proof.Machine
end

section
/-! SUPPORT and PROOFS. The encoding family (30_encoding.md): the fields of the event record and of the step words, what the
decoder answers format by format, and the states and configurations that no operation accepts. -/

namespace Sys2Proof

/-! ### Fields of a concatenation -/

theorem toNat_append_eq_add {n m : Nat} (x : BitVec n) (y : BitVec m) : (x ++ y).toNat = x.toNat * 2 ^ m + y.toNat := by
  rw [BitVec.toNat_append, ← Nat.shiftLeft_add_eq_or_of_lt y.isLt, Nat.shiftLeft_eq]

/-- A bit stored above a field is read back. -/
theorem getLsbD_ofBool_append {m : Nat} (b : Bool) (y : BitVec m) : (BitVec.ofBool b ++ y).getLsbD m = b :=
  (getLsbD_append_high (BitVec.ofBool b) y 0).trans (by simp)

@[simp] theorem Bank.ofBit_toBit (bank : Bank) : Bank.ofBit bank.toBit = bank := by
  cases bank <;> rfl

/-- Settles O16: the fields weigh 2^5, 2^4 and 1 in the word. -/
theorem eventRecordLayout : Obligations.EventRecordLayout := by
  intro e
  refine ⟨?_, EventRec.ofWord_toWord e⟩
  rw [EventRec.toWord, toNat_append_eq_add, toNat_append_eq_add, BitVec.toNat_ofBool]
  omega

/-! ### The check of the operands -/

/-- An index beyond the board is named (R62, R94 e). -/
theorem checkOperands_beyondBoard {i : Instr} (h : i.indicesOnBoard = false) :
    ∃ why, i.problem = some why ∧ checkOperands i = .error (.illFormed why) := by
  cases hp : i.problem with
  | none => simp [Instr.indicesOnBoard, hp] at h
  | some why =>
    have hr : why.refused = true := by simpa [Instr.indicesOnBoard, hp] using h
    exact ⟨why, rfl, by simp only [checkOperands, hp, hr, if_true]⟩

/-! ### The decoder, by what its fields say -/

theorem decode_fields_ok {format : BitVec 3} {code : BitVec 5} {opnd : BitVec 40} {i : Instr}
    (h : decodeFields format code opnd = .ok i) : decode (packCommand format code opnd) = checkOperands i := by
  rw [decode_packCommand, h]

theorem decode_fields_error {format : BitVec 3} {code : BitVec 5} {opnd : BitVec 40} {why : DecodeError}
    (h : decodeFields format code opnd = .error why) : decode (packCommand format code opnd) = .error why := by
  rw [decode_packCommand, h]

/-- Format K: a key that selects an operation performs it on the event of the operand (R85). -/
theorem decode_event {code : Nat} {op : EvOp} (hs : selectEvent (BitVec.ofNat 5 code) = some op) (e : EventRec) :
    decode (packEvent code e) = checkOperands (op.instr e) := by
  apply decode_fields_ok
  change decodeEvent (BitVec.ofNat 5 code) (e.toWord.setWidth 40) = .ok (op.instr e)
  simp only [decodeEvent, hs]
  rw [withOperand_setWidth (by decide), EventRec.ofWord_toWord]

/-! ### Codes that name no operation (R94) -/

theorem decodeMicro_reserved {c : BitVec 4} (h : 11 ≤ c.toNat) (opnd : BitVec 40) :
    decodeMicro c opnd = .error .reservedMicroCode := by
  unfold decodeMicro
  split
  case h_12 => rfl
  all_goals omega

/-- R85: keys of the states above RECALL select no operation. -/
theorem selectEvent_beyondRecall : ∀ {k : BitVec 5}, 12 ≤ k.toNat → selectEvent k = none := by
  decide

/-- R86: keys of IDLE, of a RECALL or PREVIEW that is not full, and of the reserved states select no operation. -/
theorem selectAuto_unselected : ∀ {a : BitVec 4}, a.toNat ≤ 2 ∨ a.toNat = 4 ∨ 10 ≤ a.toNat → selectAuto a = none := by
  decide

/-- A dispatch key that selects no operation is of a reserved state, or cannot occur. -/
theorem decodeEvent_beyondRecall {k : BitVec 5} (h : 12 ≤ k.toNat) (opnd : BitVec 40) :
    decodeEvent k opnd = .error (if 20 ≤ k.toNat then .reservedStateKey else .impossibleEventKey) := by
  have hstate : 5 ≤ (k.extractLsb' 2 3).toNat ↔ 20 ≤ k.toNat := by
    rw [BitVec.extractLsb'_toNat, Nat.shiftRight_eq_div_pow]
    omega
  simp only [decodeEvent, selectEvent_beyondRecall h, hstate]
  split <;> rfl

/-- An automatic key that selects no operation is of a reserved state, or of one in which the loop ends. -/
theorem decodeAuto_unselected {a : BitVec 4} (h : a.toNat ≤ 2 ∨ a.toNat = 4 ∨ 10 ≤ a.toNat) :
    decodeAuto a = .error (if 10 ≤ a.toNat then .reservedStateKey else .noAutoOperation) := by
  have hstate : 5 ≤ (a.extractLsb' 1 3).toNat ↔ 10 ≤ a.toNat := by
    rw [BitVec.extractLsb'_toNat, Nat.shiftRight_eq_div_pow]
    omega
  simp only [decodeAuto, selectAuto_unselected h, hstate]
  split <;> rfl

/-- A 4-bit code in the code field is read back. -/
theorem setWidth_code (c : BitVec 4) : (c.setWidth 5).setWidth 4 = c := by
  rw [BitVec.setWidth_setWidth_of_le c (by decide), BitVec.setWidth_eq]

theorem decode_micro_error {c : BitVec 4} {opnd : BitVec 40} {why : DecodeError} (h : decodeMicro c opnd = .error why) :
    decode (packCommand 1#3 (c.setWidth 5) opnd) = .error why := by
  apply decode_fields_error
  change decodeMicro ((c.setWidth 5).setWidth 4) opnd = .error why
  rw [setWidth_code, h]

theorem decode_auto_error {a : BitVec 4} {why : DecodeError} (h : decodeAuto a = .error why) (opnd : BitVec 40) :
    decode (packCommand 4#3 (a.setWidth 5) opnd) = .error why := by
  apply decode_fields_error
  change decodeAuto ((a.setWidth 5).setWidth 4) = .error why
  rw [setWidth_code, h]

/-- Settles O58: no table of selection has a row for these codes, and the state part of a key says why. -/
theorem reservedCodesRejected : Obligations.ReservedCodesRejected := by
  intro opnd
  refine ⟨fun c hc => decode_micro_error (decodeMicro_reserved hc opnd), fun k hk => decode_fields_error ?_,
    fun k hk hk' => decode_fields_error ?_, fun a ha => decode_auto_error ?_ opnd, fun a ha => decode_auto_error ?_ opnd⟩
  · exact (decodeEvent_beyondRecall (by omega) opnd).trans (by rw [if_pos hk])
  · exact (decodeEvent_beyondRecall hk opnd).trans (by rw [if_neg (by omega)])
  · exact (decodeAuto_unselected (by omega)).trans (by rw [if_pos ha])
  · exact (decodeAuto_unselected (by omega)).trans (by rw [if_neg (by omega)])

/-! ### The encoder's words read back -/

/-- A word whose operand field holds `x` is the operation that its format and code apply to `x`. -/
theorem decode_operand {format : BitVec 3} {code : BitVec 5} {w : Nat} {i : Instr} (f : BitVec w → Instr) (x : BitVec w)
    (hw : w ≤ 40) (hd : ∀ opnd, decodeFields format code opnd = withOperand w opnd f) (hi : f x = i) :
    decode (packCommand format code (x.setWidth 40)) = checkOperands i := by
  apply decode_fields_ok
  rw [hd, withOperand_setWidth hw, hi]

/-- Decoding the word of an instruction leaves nothing but the check of its operands. -/
theorem decode_encode (i : Instr) : decode (encode i) = checkOperands i := by
  cases i
  case uBusOut d => exact decode_operand .uBusOut d (by decide) (fun _ => rfl) rfl
  case writeLights p => exact decode_operand .writeLights p (by decide) (fun _ => rfl) rfl
  case tick sw => exact decode_operand .tick sw (by decide) (fun _ => rfl) rfl
  case dispatch e =>
    refine decode_operand (fun w => .dispatch (EventRec.ofWord w)) e.toWord (by decide) (fun _ => rfl) ?_
    rw [EventRec.ofWord_toWord]
  case busRead bank =>
    refine decode_operand (fun w => .busRead (Bank.ofBit (w.getLsbD 0))) (BitVec.ofBool bank.toBit) (by decide)
      (fun _ => rfl) ?_
    cases bank <;> rfl
  case busWrite bank v =>
    refine decode_operand (fun w => .busWrite (Bank.ofBit (w.getLsbD 8)) (w.extractLsb' 0 8))
      (BitVec.ofBool bank.toBit ++ v) (by decide) (fun _ => rfl) ?_
    rw [getLsbD_ofBool_append, extract_append_low, Bank.ofBit_toBit]
  case debounce k raw =>
    refine decode_operand (fun w => .debounce (w.extractLsb' 10 4) (w.extractLsb' 0 10)) (k ++ raw) (by decide)
      (fun _ => rfl) ?_
    rw [extract_append_high, extract_append_low]
  case gSwap k j =>
    refine decode_operand (fun w => .gSwap (w.extractLsb' 4 4) (w.extractLsb' 0 4)) (k ++ j) (by decide)
      (fun _ => rfl) ?_
    rw [extract_append_high, extract_append_low]
  case emit k b =>
    refine decode_operand (fun w => .emit (w.extractLsb' 0 4) (w.getLsbD 4)) (BitVec.ofBool b ++ k) (by decide)
      (fun _ => rfl) ?_
    rw [getLsbD_ofBool_append, extract_append_low]
  case record b c =>
    refine decode_operand (fun w => .record (w.getLsbD 4) (w.extractLsb' 0 4)) (BitVec.ofBool b ++ c) (by decide)
      (fun _ => rfl) ?_
    rw [getLsbD_ofBool_append, extract_append_low]
  case start d =>
    have hselect : selectRequest (0b001#3 ++ d) = .start d := by
      revert d
      decide
    exact decode_fields_ok (congrArg Except.ok hselect)
  case evDrop e => exact decode_event (op := .drop) rfl e
  case pvRelease e => exact decode_event (op := .pvRelease) rfl e
  case pvIgnore e => exact decode_event (op := .pvIgnore) rfl e
  case pvAdvance e => exact decode_event (op := .pvAdvance) rfl e
  case rcRelease e => exact decode_event (op := .rcRelease) rfl e
  case rcMiss e => exact decode_event (op := .rcMiss) rfl e
  case rcHit e => exact decode_event (op := .rcHit) rfl e
  all_goals exact decode_fields_ok rfl

/-- Settles O57: the word reads back up to the check of the operands, which passes indices of the board and names the
others. -/
theorem decodeEncodeRoundTrip : Obligations.DecodeEncodeRoundTrip := by
  intro i
  rw [decode_encode]
  exact ⟨checkOperands_onBoard, fun h => checkOperands_onBoard (Instr.indicesOnBoard_of_wellFormed h),
    checkOperands_beyondBoard⟩

/-! ### Step words (R96) -/

/-- The step word of a TICK is the kind 10, four zero bits and the switch levels. -/
theorem tickWord_eq_append (sw : Pattern) : 0x8000#16 ||| sw.setWidth 16 = 0b10#2 ++ (0#4 ++ sw) := by
  have hlevels : sw.setWidth 16 = (0#2 ++ (0#4 ++ sw) : BitVec 16) := by
    apply BitVec.eq_of_toNat_eq
    rw [toNat_append_eq_add, toNat_append_eq_add, BitVec.toNat_setWidth_of_le (by decide)]
    simp
  have hkind : 0x8000#16 = (0b10#2 ++ (0#4 ++ 0#10) : BitVec 16) := by decide
  calc 0x8000#16 ||| sw.setWidth 16
    _ = (0b10#2 ++ (0#4 ++ 0#10) : BitVec (2 + (4 + 10))) ||| (0#2 ++ (0#4 ++ sw)) := by rw [hlevels, hkind]
    _ = (0b10#2 ||| 0#2) ++ ((0#4 ||| 0#4) ++ (0#10 ||| sw)) := by rw [BitVec.or_append, BitVec.or_append]
    _ = 0b10#2 ++ (0#4 ++ sw) := by rw [BitVec.or_zero, BitVec.or_zero, BitVec.zero_or]

theorem decodeStepWord_tick (sw : Pattern) : decodeStepWord (0x8000#16 ||| sw.setWidth 16) = some (.tick sw) := by
  rw [tickWord_eq_append]
  have hkind : (0b10#2 ++ (0#4 ++ sw) : BitVec 16).extractLsb' 14 2 = 0b10#2 := extract_append_high _ _
  have hzero : (0b10#2 ++ (0#4 ++ sw) : BitVec 16).extractLsb' 10 4 = 0#4 :=
    (extract_append_within _ _ 10 4 (by decide)).trans (extract_append_high _ _)
  have harg : (0b10#2 ++ (0#4 ++ sw) : BitVec 16).extractLsb' 0 10 = sw :=
    (extract_append_within _ _ 0 10 (by decide)).trans (extract_append_low _ _)
  simp [decodeStepWord, hkind, hzero, harg]

/-- A step word with a meaning has four zero bits, and stands for RESET, a request or a TICK. -/
theorem decodeStepWord_eq_some {w : BitVec 16} {i : Instr} (h : decodeStepWord w = some i) :
    w.extractLsb' 10 4 = 0#4 ∧ (i = .reset ∨ (∃ q, i = selectRequest q) ∨ ∃ sw, i = .tick sw) := by
  unfold decodeStepWord at h
  split at h
  · cases h
  next hzero =>
  refine ⟨not_not.mp hzero, ?_⟩
  split at h
  · dsimp only at h
    split at h <;> cases h
    exact .inl rfl
  · dsimp only at h
    split at h <;> cases h
    exact .inr (.inl ⟨_, rfl⟩)
  · cases h
    exact .inr (.inr ⟨_, rfl⟩)
  · cases h

/-- Settles O59: the decoder evaluates on each of the words. -/
theorem specWordsDecode : Obligations.SpecWordsDecode := by
  unfold Obligations.SpecWordsDecode
  decide

end Sys2Proof

namespace Sys2Proof.Machine

/-! ### Requests and the other steps of the environment (R83, R96) -/

/-- No step of the environment has an operand outside its domain. -/
theorem checkOperands_environmentStep {i : Instr} (h : environmentStep i = true) : checkOperands i = .ok i := by
  unfold environmentStep at h
  split at h
  case h_7 => cases h
  all_goals rfl

/-- A request word stands for a step of the environment (R83, R205). -/
theorem environmentStep_selectRequest (q : BitVec 5) : environmentStep (selectRequest q) = true := by
  unfold selectRequest
  split
  · rfl
  split
  · rfl
  split <;> rfl

/-- Format Q: a request word is the request it selects (R83). -/
theorem decode_request (q : BitVec 5) (opnd : BitVec 40) :
    decode (packCommand 2#3 q opnd) = .ok (selectRequest q) :=
  (decode_fields_ok rfl).trans (checkOperands_environmentStep (environmentStep_selectRequest q))

/-- Settles O28: the request a word names is the one its highest set bit selects. -/
theorem requestPriority : Obligations.RequestPriority :=
  fun q => decode_request q 0#40

/-- Every step of the environment reads back from its step word. -/
theorem decodeStepWord_encodeStepWord {i : Instr} (h : environmentStep i = true) :
    ∃ w, encodeStepWord i = some w ∧ decodeStepWord w = some i := by
  cases i
  case start d => exact ⟨_, rfl, by revert d; decide⟩
  case tick sw => exact ⟨_, rfl, decodeStepWord_tick sw⟩
  case reset | noreq | sessionReset | abort => exact ⟨_, rfl, by decide⟩
  all_goals cases h

theorem encodeStepWord_eq_none {i : Instr} (h : environmentStep i = false) : encodeStepWord i = none := by
  cases i
  case reset | noreq | start | sessionReset | abort | tick => cases h
  all_goals rfl

/-- Settles O60: the encoder's six words read back, and the decoder answers no other operation. -/
theorem stepWordsReadBack : Obligations.StepWordsReadBack := by
  intro i
  refine ⟨decodeStepWord_encodeStepWord, encodeStepWord_eq_none, fun w h => ?_⟩
  obtain ⟨hzero, rfl | ⟨q, rfl⟩ | ⟨sw, rfl⟩⟩ := decodeStepWord_eq_some h
  · exact ⟨rfl, hzero⟩
  · exact ⟨environmentStep_selectRequest q, hzero⟩
  · exact ⟨rfl, hzero⟩

/-! ### States and configurations outside the rules -/

/-- AUTO meets no operation in a reserved state, and refuses it (R86, R94 b). -/
theorem autoOp_reserved {s : State} (h : 5 ≤ s.rstate.toNat) : autoOp s = .refused (.reservedRState s.rstate) := by
  rw [autoOp, autoLoop, selectAuto_reserved h]
  exact if_pos h

/-- R85: outside PREVIEW and RECALL the comparator is 0. -/
theorem hitBit_other (e : EventRec) {s : State} (hp : s.rstate ≠ stPreview) (hr : s.rstate ≠ stRecall) :
    hitBit s e = .ok false := by
  rw [hitBit, if_neg hp, if_neg hr]

/-- DISPATCH above RECALL finds no operation: the state is reserved, or the event cannot occur (R85, R94 b). -/
theorem dispatchOp_beyondRecall {e : EventRec} {s : State} (hb : onBoard e.button = true) (h : 3 ≤ s.rstate.toNat) :
    dispatchOp e s =
      .refused (if 5 ≤ s.rstate.toNat then .reservedRState s.rstate else .eventInTerminalState) := by
  have hhit : hitBit s e = .ok false :=
    hitBit_other e (by intro hs; simp [hs] at h) (by intro hs; simp [hs] at h)
  simp only [dispatchOp, if_pos hb, hhit, selectEvent_other e h]
  split <;> rfl

theorem execStart_reserved (d : BitVec 2) {s : State} (h : 5 ≤ s.rstate.toNat) :
    execStart d s = .refused (.reservedRState s.rstate) :=
  if_pos h

/-- An accepted START refuses an active size outside 2 to 10 (R7, R235 b). -/
theorem execStart_illegalSize {d : BitVec 2} {n : Nat} {s : State} (hs : s.rstate = stIdle)
    (ha : activeSize s.cfg d = some n) (hn : n < 2 ∨ 10 < n) : execStart d s = .refused (.activeSize n) := by
  have hcode : ¬ 5 ≤ s.rstate.toNat := by rw [hs]; decide
  simp only [execStart, if_neg hcode, if_pos hs, ha, if_neg (show ¬ (2 ≤ n ∧ n ≤ 10) by omega)]

/-- Settles O48: what each of the operations that read `RSTATE` or the active size answers, and the step that looks at
both first. -/
theorem statesOutsideTheRulesRefused : Obligations.StatesOutsideTheRulesRefused := by
  intro e d n s hbutton
  have hb : onBoard e.button = true := onBoard_eq_true_iff.mpr hbutton
  refine ⟨fun h => ⟨step_reserved h, autoOp_reserved h, ?reserved, execStart_reserved d h⟩, ?terminal,
    execStart_illegalSize, step_illegalSizes⟩
  case reserved => exact (dispatchOp_beyondRecall hb (by omega)).trans (by rw [if_pos h])
  case terminal =>
    intro hs
    have hcode : s.rstate.toNat = 3 ∨ s.rstate.toNat = 4 := hs.imp (congrArg BitVec.toNat) (congrArg BitVec.toNat)
    exact (dispatchOp_beyondRecall hb (by omega)).trans (by rw [if_neg (by omega)])

end Sys2Proof.Machine
end

section
/-! SUPPORT and PROOFS. The signaling family (40_signaling.md): what each micro-operation and each bus sequence answers, by
who drives the bus and what it shows (R36). -/

namespace Sys2Proof.Machine

/-! ### Who drives the bus (R36) -/

/-- Two drivers are two of the three: the block and the two input latches. -/
theorem two_le_drivers_iff {p : PinCtl} : 2 ≤ p.drivers ↔
    (p.busDir = true ∧ p.oeLoN = false) ∨ (p.busDir = true ∧ p.oeHiN = false) ∨
      (p.oeLoN = false ∧ p.oeHiN = false) := by
  unfold PinCtl.drivers
  cases p.busDir <;> cases p.oeLoN <;> cases p.oeHiN <;> decide

theorem drivers_le_one_iff {p : PinCtl} : p.drivers ≤ 1 ↔
    ¬ (p.busDir = true ∧ p.oeLoN = false) ∧ ¬ (p.busDir = true ∧ p.oeHiN = false) ∧
      ¬ (p.oeLoN = false ∧ p.oeHiN = false) := by
  rw [← not_or, ← not_or, ← two_le_drivers_iff]
  omega

theorem inputsOff_of_neutral {s : State} (h : s.pin.neutral = true) : inputsOff s := by
  obtain ⟨hhi, hlo, -⟩ := neutral_iff.mp h
  exact ⟨hlo, hhi⟩

/-! ### Micro-operations that move a driver -/

theorem microBusOut_next {d : Byte} {s : State} (h : inputsOff s) :
    microBusOut d s = .next (afterCycle 0x1#4 d { s with pin := { s.pin with busOut := d, busDir := true } }) :=
  endCycle_next (drivers_inputsOff h.1 h.2)

theorem microBusOut_contends {d : Byte} {s : State} (h : ¬ inputsOff s) :
    microBusOut d s = .fault .busContention := by
  refine endCycle_fault (two_le_drivers_iff.mpr ?_)
  obtain hlo | hhi := not_and_or.mp h
  · exact .inl ⟨rfl, Bool.eq_false_of_not_eq_true hlo⟩
  · exact .inr (.inl ⟨rfl, Bool.eq_false_of_not_eq_true hhi⟩)

theorem microBusRel_next {s : State} (h : ¬ (s.pin.oeLoN = false ∧ s.pin.oeHiN = false)) :
    microBusRel s = .next (afterCycle 0x2#4 0x00#8 { s with pin := { s.pin with busDir := false } }) :=
  endCycle_next (drivers_le_one_iff.mpr ⟨nofun, nofun, h⟩)

theorem microOeLoOn_next {s : State} (hdir : s.pin.busDir = false) (hhi : s.pin.oeHiN = true) :
    microOeLoOn s =
      .next { afterCycle 0x5#4 0x00#8 { s with pin := { s.pin with oeLoN := false } } with settleLo := 0 } := by
  rw [microOeLoOn, endCycle_next (drivers_le_one_iff.mpr (by simp [hdir, hhi])), andThen_next]

theorem microOeLoOn_contends {s : State} (h : s.pin.busDir = true ∨ s.pin.oeHiN = false) :
    microOeLoOn s = .fault .busContention := by
  rw [microOeLoOn, endCycle_fault (two_le_drivers_iff.mpr (by tauto)), andThen_fault]

theorem microOeHiOn_next {s : State} (hdir : s.pin.busDir = false) (hlo : s.pin.oeLoN = true) :
    microOeHiOn s =
      .next { afterCycle 0x7#4 0x00#8 { s with pin := { s.pin with oeHiN := false } } with settleHi := 0 } := by
  rw [microOeHiOn, endCycle_next (drivers_le_one_iff.mpr (by simp [hdir, hlo])), andThen_next]

theorem microOeHiOn_contends {s : State} (h : s.pin.busDir = true ∨ s.pin.oeLoN = false) :
    microOeHiOn s = .fault .busContention := by
  rw [microOeHiOn, endCycle_fault (two_le_drivers_iff.mpr (by tauto)), andThen_fault]

theorem microOeLoOff_next {s : State} (h : ¬ (s.pin.busDir = true ∧ s.pin.oeHiN = false)) :
    microOeLoOff s =
      .next (afterCycle 0x6#4 0x00#8 { s with pin := { s.pin with oeLoN := true }, settleLo := 0 }) :=
  endCycle_next (drivers_le_one_iff.mpr ⟨nofun, h, nofun⟩)

theorem microOeHiOff_next {s : State} (h : ¬ (s.pin.busDir = true ∧ s.pin.oeLoN = false)) :
    microOeHiOff s =
      .next (afterCycle 0x8#4 0x00#8 { s with pin := { s.pin with oeHiN := true }, settleHi := 0 }) :=
  endCycle_next (drivers_le_one_iff.mpr ⟨h, nofun, nofun⟩)

/-- Settles O1: with one driver at most a cycle ends, and leaves its marks only. -/
theorem nopLetsOneCyclePass : Obligations.NopLetsOneCyclePass :=
  fun _ h => endCycle_next h

/-- Settles O2: the drivers counted after the write are those of the input latches, and the block itself for U_BUS_OUT. -/
theorem busDirectionOperations : Obligations.BusDirectionOperations :=
  fun _ _ => ⟨microBusOut_next, microBusOut_contends, microBusRel_next⟩

/-- Settles O5: an enabled bank drives, so it contends with each of the two others. -/
theorem outputEnableConnectsOrContends : Obligations.OutputEnableConnectsOrContends :=
  fun _ => ⟨fun ⟨hdir, hhi⟩ => microOeLoOn_next hdir hhi, microOeLoOn_contends,
    fun ⟨hdir, hlo⟩ => microOeHiOn_next hdir hlo, microOeHiOn_contends⟩

/-- Settles O6: a disabled bank does not drive, so only the two others can contend. -/
theorem outputDisableDisconnects : Obligations.OutputDisableDisconnects :=
  fun _ => ⟨microOeLoOff_next, microOeHiOff_next⟩

/-! ### Micro-operations that take the bus's value -/

/-- Settles O3: the strobe's own pin is no driver, so the bus shows the latch what it shows the state before. -/
theorem strobesLatchTheBus : Obligations.StrobesLatchTheBus := by
  intro s hs
  constructor
  · obtain ⟨b, fh, fc, hb, h⟩ := withBus_eq (s := { s with pin := { s.pin with stbLo := true } })
      (f := fun b t => endCycle 0x3#4 0x00#8 { t with outLatchLo := b, pin := { t.pin with stbLo := false } }) hs
    exact ⟨b, _, h.trans (endCycle_next hs), hb, rfl⟩
  · obtain ⟨b, fh, fc, hb, h⟩ := withBus_eq (s := { s with pin := { s.pin with stbHi := true } })
      (f := fun b t => endCycle 0x4#4 0x00#8 { t with outLatchHi := b, pin := { t.pin with stbHi := false } }) hs
    exact ⟨b, _, h.trans (endCycle_next hs), hb, rfl⟩

/-- Settles O4: the byte taken is the one the bus shows, and the cycle ends without contention as it began. -/
theorem samplesTakeTheBus : Obligations.SamplesTakeTheBus := by
  intro s hs
  constructor
  · obtain ⟨b, fh, fc, hb, h⟩ := withBus_eq (f := fun b t => endCycle 0x9#4 0x00#8 { t with rdLo := b }) hs
    exact ⟨b, _, h.trans (endCycle_next hs), hb, rfl⟩
  · obtain ⟨b, fh, fc, hb, h⟩ := withBus_eq (f := fun b t => endCycle 0xA#4 0x00#8 { t with rdHi := b }) hs
    exact ⟨b, _, h.trans (endCycle_next hs), hb, rfl⟩

/-! ### Bus sequences and entry points -/

/-- Settles O8: the byte the strobe latches is the one the block began to drive the cycle before. -/
theorem busWriteLatchesOneByte : Obligations.BusWriteLatchesOneByte :=
  fun _ _ h => ⟨busWriteSeq_lo_next h, busWriteSeq_hi_next h⟩

theorem execBusRead_next {bank : Bank} {s t : State} (h : busReadSeq bank s = .next t) :
    execBusRead bank s = .next { t with ret := .byte (bankByte bank t) } := by
  rw [execBusRead, h, andThen_next]

theorem execReadSwitches_next {s t : State} (h : readSwitchesSeq s = .next t) :
    execReadSwitches s = .next { t with ret := .set (switchSet t) } := by
  rw [execReadSwitches, h, andThen_next]

/-- Settles O9: the settle wait is long enough, so the sample is the bank's byte. -/
theorem busReadReturnsInvertedSwitches : Obligations.BusReadReturnsInvertedSwitches :=
  fun s h hdir hsettle => ⟨execBusRead_next (busReadSeq_lo_next h hdir hsettle),
    s.freeHi, _, execBusRead_next (busReadSeq_hi_next h hdir hsettle), rfl⟩

/-- The latches hold the pattern inverted, and a light is lit where its latch bit is 0 (R126, R128). -/
theorem lit_afterLight (p : Pattern) (s : State) {i : Nat} (hi : i < 10) : (afterLight p s).lit i = p.getLsbD i := by
  unfold State.lit
  by_cases hlow : i < 8
  · simp [afterLight, hlow, hi]
  · have hbit : i - 8 < 2 := by omega
    have hpos : 8 + (i - 8) = i := by omega
    have hlatch : (0b111111#6 ++ ~~~(p.extractLsb' 8 2)).getLsbD (i - 8) = !p.getLsbD i := by
      rw [getLsbD_append_low _ _ _ hbit, BitVec.getLsbD_not, BitVec.getLsbD_extractLsb', hpos]
      simp [hbit]
    rw [if_neg hlow, if_pos hi]
    exact (congrArg not hlatch).trans (Bool.not_not _)

/-- Settles O10: lights are lit by the output latches alone, whatever `LIGHTS` holds. -/
theorem writeLightsShowsPattern : Obligations.WriteLightsShowsPattern :=
  fun p s h => ⟨_, writeLightsSeq_next h, rfl, fun _ hi => lit_afterLight p s hi⟩

/-- Settles O11: the inversion of R92 undoes that of the keypad, and its mask drops the unused lines. -/
theorem readSwitchesReturnsSwitches : Obligations.ReadSwitchesReturnsSwitches := by
  intro s h hsettle
  refine ⟨s.freeHi, _, execReadSwitches_next (readSwitchesSeq_next h hsettle), ?_⟩
  simp only [switchSet, inHi, inLo, pressedSet_inverted]

/-- Settles O12: both entry points end with the bus released, the strobes idle and the banks off the bus again. -/
theorem entryPointsStayNeutral : Obligations.EntryPointsStayNeutral := by
  intro s h
  have hoff := inputsOff_of_neutral h
  obtain ⟨hhi, hlo, hstbHi, hstbLo, -⟩ := neutral_iff.mp h
  refine ⟨fun p => ⟨_, writeLightsSeq_next hoff, neutral_iff.mpr ⟨hhi, hlo, rfl, rfl, rfl⟩⟩, ?_⟩
  obtain ⟨t, ht, -, hpin, -⟩ := readSwitchesSeq_any hoff
  have hneutral : t.pin.neutral = true := by
    rw [hpin]
    exact neutral_iff.mpr ⟨hhi, hlo, hstbHi, hstbLo, rfl⟩
  exact ⟨_, execReadSwitches_next ht, hneutral⟩

end Sys2Proof.Machine
end

section
/-! SUPPORT and PROOFS. The signaling family (40_signaling.md): the invariant of the pin level, kept by every micro-operation
and carried through every sequence, operation and step (R129, R234). -/

namespace Sys2Proof.Machine

/-! ### The pin-level invariant as a relation that sequences carry -/

/-- The second state is sound if the first is, and has its parameters (R46, R129). -/
def KeepsSound (s t : State) : Prop := Sound s → Sound t ∧ t.cfg = s.cfg

theorem KeepsSound.refl (s : State) : KeepsSound s s := fun h => ⟨h, rfl⟩

theorem KeepsSound.trans {s t u : State} (hst : KeepsSound s t) (htu : KeepsSound t u) : KeepsSound s u := by
  intro hs
  obtain ⟨ht, hcfg⟩ := hst hs
  obtain ⟨hu, hcfg'⟩ := htu ht
  exact ⟨hu, hcfg'.trans hcfg⟩

theorem keepsSound_andThen {f g : State → Res} (hf : Keeps KeepsSound f) (hg : Keeps KeepsSound g) :
    Keeps KeepsSound fun s => andThen (f s) g :=
  hf.andThen (fun _ _ _ => .trans) hg

theorem keepsSound_next {f : State → State} (h : ∀ s, KeepsSound s (f s)) : Keeps KeepsSound fun s => .next (f s) := by
  rintro s _ ⟨⟩
  exact h s

theorem keepsSound_update {g : State → State} {f : State → Res} (hg : ∀ s, KeepsSound s (g s))
    (hf : Keeps KeepsSound f) : Keeps KeepsSound fun s => f (g s) :=
  fun s t h => (hg s).trans (hf (g s) t h)

/-- Pin activity that leaves the pins sound leaves the state sound: it writes nothing else the invariant speaks of. -/
theorem KeepsSound.of_pinsOnly {s t : State} (h : PinsOnly s t) (hp : PinsSound s → PinsSound t) : KeepsSound s t := by
  rintro ⟨hdrivers, hlo, hhi, hrest⟩
  obtain ⟨hdrivers', hlo', hhi'⟩ := hp ⟨hdrivers, hlo, hhi⟩
  refine ⟨⟨hdrivers', hlo', hhi', ?_⟩, ?_⟩ <;> rw [h.eq]
  exact hrest

/-- A cycle that ends is one without contention, so it is enough that strobes idle before are idle at its end (R36). -/
theorem KeepsSound.endCycle {s u t : State} {code : BitVec 4} {data : Byte} (h : Machine.endCycle code data u = .next t)
    (hu : PinsOnly s u)
    (hidle : s.pin.stbLo = false → s.pin.stbHi = false → u.pin.stbLo = false ∧ u.pin.stbHi = false) :
    KeepsSound s t := by
  obtain ⟨hpin, hdrivers⟩ := endCycle_drivers h
  refine .of_pinsOnly (hu.trans (endCycle_readOnly code data u t h).1) fun ⟨_, hlo, hhi⟩ => ⟨hdrivers, ?_⟩
  rw [hpin]
  exact hidle hlo hhi

theorem KeepsSound.rstate (s : State) {r : RState} (hr : r.toNat ≤ 4) : KeepsSound s { s with rstate := r } :=
  fun ⟨hdrivers, hlo, hhi, hmap, hscore, _, hsizes⟩ => ⟨⟨hdrivers, hlo, hhi, hmap, hscore, hr, hsizes⟩, rfl⟩

theorem KeepsSound.score (s : State) {n : Nat} (hn : n ≤ s.cfg.scoreMax) : KeepsSound s { s with score := n } :=
  fun ⟨hdrivers, hlo, hhi, hmap, _, hrest⟩ => ⟨⟨hdrivers, hlo, hhi, hmap, hn, hrest⟩, rfl⟩

theorem KeepsSound.map (s : State) {m : Vector Index 10} (hm : PermutesBelow s.map 10 → PermutesBelow m 10) :
    KeepsSound s { s with map := m } :=
  fun ⟨hdrivers, hlo, hhi, hmap, hrest⟩ => ⟨⟨hdrivers, hlo, hhi, hm hmap, hrest⟩, rfl⟩

/-! ### Micro-operations and bus sequences -/

theorem microNop_keepsSound : Keeps KeepsSound microNop :=
  fun s _ h => .endCycle h (.refl s) .intro

theorem microBusOut_keepsSound (d : Byte) : Keeps KeepsSound (microBusOut d) :=
  fun s _ h => .endCycle h (s := s) rfl .intro

theorem microBusRel_keepsSound : Keeps KeepsSound microBusRel :=
  fun s _ h => .endCycle h (s := s) rfl .intro

theorem microOeLoOff_keepsSound : Keeps KeepsSound microOeLoOff :=
  fun s _ h => .endCycle h (s := s) rfl .intro

theorem microOeHiOff_keepsSound : Keeps KeepsSound microOeHiOff :=
  fun s _ h => .endCycle h (s := s) rfl .intro

theorem microOeLoOn_keepsSound : Keeps KeepsSound microOeLoOn :=
  keepsSound_andThen (fun s _ h => .endCycle h (s := s) rfl .intro) (keepsSound_next fun u => .refl u)

theorem microOeHiOn_keepsSound : Keeps KeepsSound microOeHiOn :=
  keepsSound_andThen (fun s _ h => .endCycle h (s := s) rfl .intro) (keepsSound_next fun u => .refl u)

theorem microSampLo_keepsSound : Keeps KeepsSound microSampLo := by
  intro s t h
  obtain ⟨-, b, fh, fc, -, hcycle⟩ := withBus_cases h
  exact .endCycle hcycle (s := s) rfl .intro

theorem microSampHi_keepsSound : Keeps KeepsSound microSampHi := by
  intro s t h
  obtain ⟨-, b, fh, fc, -, hcycle⟩ := withBus_cases h
  exact .endCycle hcycle (s := s) rfl .intro

theorem microStbLo_keepsSound : Keeps KeepsSound microStbLo := by
  intro s t h
  obtain ⟨-, b, fh, fc, -, hcycle⟩ := withBus_cases h
  exact .endCycle hcycle (s := s) rfl fun _ hhi => ⟨rfl, hhi⟩

theorem microStbHi_keepsSound : Keeps KeepsSound microStbHi := by
  intro s t h
  obtain ⟨-, b, fh, fc, -, hcycle⟩ := withBus_cases h
  exact .endCycle hcycle (s := s) rfl fun hlo _ => ⟨hlo, rfl⟩

theorem busWriteSeq_keepsSound (bank : Bank) (v : Byte) : Keeps KeepsSound (busWriteSeq bank v) := by
  cases bank with
  | lo => exact keepsSound_andThen (microBusOut_keepsSound v) microStbLo_keepsSound
  | hi => exact keepsSound_andThen (microBusOut_keepsSound v) microStbHi_keepsSound

theorem nopSeq_keepsSound (n : Nat) : Keeps KeepsSound (nopSeq n) := by
  induction n with
  | zero => exact keepsSound_next .refl
  | succ n ih => exact keepsSound_andThen microNop_keepsSound ih

theorem busReadSeq_keepsSound (bank : Bank) : Keeps KeepsSound (busReadSeq bank) := by
  intro s
  have hwait := nopSeq_keepsSound s.cfg.settleCycles
  cases bank with
  | lo =>
    exact keepsSound_andThen (keepsSound_andThen (keepsSound_andThen microOeLoOn_keepsSound hwait)
      microSampLo_keepsSound) microOeLoOff_keepsSound s
  | hi =>
    exact keepsSound_andThen (keepsSound_andThen (keepsSound_andThen microOeHiOn_keepsSound hwait)
      microSampHi_keepsSound) microOeHiOff_keepsSound s

theorem restartUstep_keepsSound : Keeps KeepsSound fun s => .next (restartUstep s) :=
  keepsSound_next fun s => .refl s

theorem writeLightsSeq_keepsSound (p : Pattern) : Keeps KeepsSound (writeLightsSeq p) :=
  have hlow := keepsSound_update (g := restartUstep) .refl (busWriteSeq_keepsSound .lo (byteLo p))
  keepsSound_andThen (keepsSound_andThen (keepsSound_andThen hlow (busWriteSeq_keepsSound .hi (byteHi p)))
    microBusRel_keepsSound) restartUstep_keepsSound

theorem readSwitchesSeq_keepsSound : Keeps KeepsSound readSwitchesSeq :=
  have hrelease := keepsSound_update (g := restartUstep) .refl microBusRel_keepsSound
  keepsSound_andThen (keepsSound_andThen (keepsSound_andThen hrelease (busReadSeq_keepsSound .lo))
    (busReadSeq_keepsSound .hi)) restartUstep_keepsSound

theorem replayEntry_keepsSound (w : TraceEntry) : Keeps KeepsSound (replayEntry w) := by
  intro s t h
  unfold replayEntry at h
  split at h
  · exact microNop_keepsSound s t h
  · exact microBusOut_keepsSound _ s t h
  · exact microBusRel_keepsSound s t h
  · exact microStbLo_keepsSound s t h
  · exact microStbHi_keepsSound s t h
  · exact microOeLoOn_keepsSound s t h
  · exact microOeLoOff_keepsSound s t h
  · exact microOeHiOn_keepsSound s t h
  · exact microOeHiOff_keepsSound s t h
  · exact microSampLo_keepsSound s t h
  · exact microSampHi_keepsSound s t h
  · cases h
    exact .refl s

theorem replay_keepsSound (ws : List TraceEntry) : Keeps KeepsSound (replay ws) := by
  induction ws with
  | nil => exact keepsSound_next .refl
  | cons w rest ih => exact keepsSound_andThen (replayEntry_keepsSound w) ih

/-! ### Debounce, generator, score and reset -/

theorem sampleOp_keepsSound : Keeps KeepsSound sampleOp := by
  refine keepsSound_andThen readSwitchesSeq_keepsSound (keepsSound_next fun t => ?_)
  rw [pollSet_eq]
  exact .refl t

theorem debounceLane_keepsSound (raw : Pattern) (i : Nat) (s : State) : KeepsSound s (debounceLane raw i s) := by
  rw [debounceLane_eq]
  exact .refl s

/-- A swap that is not refused exchanges two entries of the board (R163, R164). -/
theorem swapEntries_keepsSound (i j : Nat) : Keeps KeepsSound (swapEntries i j) := by
  intro s t h
  by_cases hij : i < 10 ∧ j < 10
  · obtain ⟨hi, hj⟩ := hij
    rw [swapEntries_next hi hj] at h
    cases h
    exact .map s fun hm => hm.swap le_rfl hi hj
  · rw [swapEntries_refused hij] at h
    cases h

theorem initMap_keepsSound (s : State) : KeepsSound s (initMap s) :=
  .map s fun _ => identityMap_permutes le_rfl

theorem shuffle_keepsSound (n : Nat) : Keeps KeepsSound (shuffle n) := by
  induction n with
  | zero => exact keepsSound_next .refl
  | succ n ih => exact fun s => keepsSound_andThen (swapEntries_keepsSound (n + 1) (randChoice (n + 2) s)) ih (takeRand s)

theorem attempt_keepsSound : Keeps KeepsSound attempt :=
  fun s => keepsSound_andThen (keepsSound_next initMap_keepsSound) (shuffle_keepsSound (s.nact.toNat - 1)) s

theorem attempts_keepsSound (n : Nat) : Keeps KeepsSound (attempts n) := by
  induction n with
  | zero => rintro s t ⟨⟩
  | succ n ih =>
    refine keepsSound_andThen attempt_keepsSound fun s t h => ?_
    split at h
    · exact ih s t h
    · cases h
      exact .refl s

theorem generateOp_keepsSound : Keeps KeepsSound generateOp :=
  fun s => attempts_keepsSound (s.rand.length + s.cfg.attemptFuel) s

/-- The sum is bounded by the ceiling (R220, R222). -/
theorem addScore_keepsSound (c : Index) (s : State) : KeepsSound s (addScore c s) :=
  .score s (Nat.min_le_right _ _)

/-- RESET makes everything sound but the parameters, which it does not touch (R261, R263). -/
theorem sound_resetBlock {s : State} (h : legalSizes s.cfg) (es : List EventRec) :
    Sound { resetBlock s with events := es } :=
  ⟨(by decide : State.reset.pin.drivers ≤ 1), rfl, rfl, identityMap_permutes le_rfl, Nat.zero_le _,
    (by decide : stIdle.toNat ≤ 4), h⟩

/-! ### Controller -/

theorem lightOp_keepsSound (p : Pattern) : Keeps KeepsSound (lightOp p) :=
  fun s => writeLightsSeq_keepsSound p { s with lights := p }

theorem lightWith_keepsSound (base : Pattern) (l : Index) : Keeps KeepsSound (lightWith base l) := by
  intro s t h
  unfold lightWith at h
  split at h
  · exact lightOp_keepsSound _ s t h
  · cases h

theorem endRound_keepsSound (success : Bool) (count : Index) (s : State) : KeepsSound s (endRound success count s) :=
  (addScore_keepsSound count (setOutcome success count s)).trans (.rstate _ (by decide))

theorem performAuto_keepsSound (op : AutoOp) : Keeps KeepsSound (performAuto op) := by
  cases op with
  | pvDone =>
    have hlights : Keeps KeepsSound fun s => lightOp 0x000#10 { s with rstate := stRecall } :=
      keepsSound_update (fun s => .rstate s (by decide)) (lightOp_keepsSound 0x000#10)
    exact keepsSound_andThen hlights (keepsSound_next fun u => .refl u)
  | rcDone => exact keepsSound_next fun s => .rstate s (by decide)
  | reportSuccess => exact keepsSound_next fun s => endRound_keepsSound true s.nact s
  | reportFailure => exact keepsSound_next fun s => endRound_keepsSound false s.rcur s

theorem autoOp_keepsSound : Keeps KeepsSound autoOp :=
  autoLoop_keeps .refl (fun _ _ _ => .trans) performAuto_keepsSound 4

theorem execPvAdvance_keepsSound (e : EventRec) : Keeps KeepsSound (execPvAdvance e) := by
  intro s t h
  unfold execPvAdvance at h
  split at h
  · obtain ⟨u, hu, ht⟩ := andThen_eq_next.mp h
    cases ht
    exact lightWith_keepsSound _ _ s u hu
  · cases h

theorem execRcHit_keepsSound (e : EventRec) : Keeps KeepsSound (execRcHit e) := by
  intro s t h
  unfold execRcHit at h
  split at h
  · obtain ⟨u, hu, ht⟩ := andThen_eq_next.mp h
    cases ht
    exact lightWith_keepsSound _ _ s u hu
  · cases h

theorem performEvent_keepsSound (op : EvOp) (e : EventRec) : Keeps KeepsSound (performEvent op e) := by
  cases op with
  | pvAdvance => exact execPvAdvance_keepsSound e
  | rcHit => exact execRcHit_keepsSound e
  | rcMiss => exact keepsSound_next fun s => .rstate s (by decide)
  | drop | pvRelease | pvIgnore | rcRelease => exact keepsSound_next .refl

theorem dispatchOp_keepsSound (e : EventRec) : Keeps KeepsSound (dispatchOp e) :=
  dispatchOp_keeps .refl (fun _ _ _ => .trans) performAuto_keepsSound performEvent_keepsSound e

theorem dispatchAll_keepsSound (es : List EventRec) : Keeps KeepsSound (dispatchAll es) :=
  dispatchAll_keeps .refl (fun _ _ _ => .trans) performAuto_keepsSound performEvent_keepsSound (fun s _ => .refl s) es

theorem execTick_keepsSound (sw : Pattern) : Keeps KeepsSound (execTick sw) := by
  intro s t h
  obtain ⟨u, hu, h⟩ := andThen_eq_next.mp h
  obtain ⟨v, hv, ht⟩ := andThen_eq_next.mp h
  cases ht
  exact (sampleOp_keepsSound { s with sw := sw } u hu).trans (dispatchAll_keepsSound u.events u v hv)

theorem startRound_keepsSound (d : BitVec 2) (n : Nat) : Keeps KeepsSound (startRound d n) := by
  have hpreview : Keeps KeepsSound fun u => autoOp { u with rstate := stPreview } :=
    keepsSound_update (fun u => .rstate u (by decide)) autoOp_keepsSound
  have hlights : Keeps KeepsSound fun t => lightOp 0x000#10 (beginRound t) :=
    keepsSound_update (fun t => .refl t) (lightOp_keepsSound 0x000#10)
  have hgenerate : Keeps KeepsSound fun s => generateOp { s with diff := d, nact := BitVec.ofNat 4 n } :=
    keepsSound_update (fun s => .refl s) generateOp_keepsSound
  exact keepsSound_andThen hgenerate (keepsSound_andThen hlights hpreview)

theorem execStart_keepsSound (d : BitVec 2) : Keeps KeepsSound (execStart d) := by
  intro s t h
  obtain rfl | ⟨n, -, -, hstart⟩ := execStart_eq_next h
  · exact .refl t
  · exact startRound_keepsSound d n s t hstart

/-! ### Every step -/

/-- R129, R163, R222 over each of the 42 operations, performed to its end. -/
theorem exec_keepsSound (i : Instr) : Keeps KeepsSound (exec i) := by
  cases i with
  | uNop => exact microNop_keepsSound
  | uBusOut d => exact microBusOut_keepsSound d
  | uBusRel => exact microBusRel_keepsSound
  | uStbLo => exact microStbLo_keepsSound
  | uStbHi => exact microStbHi_keepsSound
  | uOeLoOn => exact microOeLoOn_keepsSound
  | uOeLoOff => exact microOeLoOff_keepsSound
  | uOeHiOn => exact microOeHiOn_keepsSound
  | uOeHiOff => exact microOeHiOff_keepsSound
  | uSampLo => exact microSampLo_keepsSound
  | uSampHi => exact microSampHi_keepsSound
  | busWrite bank v => exact busWriteSeq_keepsSound bank v
  | busRead bank => exact keepsSound_andThen (busReadSeq_keepsSound bank) (keepsSound_next fun t => .refl t)
  | writeLights p => exact writeLightsSeq_keepsSound p
  | readSwitches => exact keepsSound_andThen readSwitchesSeq_keepsSound (keepsSound_next fun t => .refl t)
  | sample => exact keepsSound_andThen sampleOp_keepsSound (keepsSound_next fun t => .refl t)
  | debounce k raw =>
    intro s t h
    simp only [exec, execDebounce] at h
    split at h <;> cases h
    exact debounceLane_keepsSound raw k.toNat s
  | emit k b =>
    intro s t h
    simp only [exec, execEmit] at h
    split at h <;> cases h
    exact .refl s
  | generate => exact generateOp_keepsSound
  | gInit => exact keepsSound_next initMap_keepsSound
  | gSwap k j => exact swapEntries_keepsSound k.toNat j.toNat
  | gCheck =>
    intro s t h
    simp only [exec, execGCheck] at h
    split at h <;> cases h
    exact .refl s
  | noreq | evDrop | pvRelease | pvIgnore | rcRelease => exact keepsSound_next .refl
  | start d => exact execStart_keepsSound d
  | sessionReset => exact keepsSound_next fun s => .score s (Nat.zero_le _)
  | abort => exact keepsSound_next fun s => .rstate s (r := stIdle) (by decide)
  | tick sw => exact execTick_keepsSound sw
  | dispatch e => exact dispatchOp_keepsSound e
  | auto => exact autoOp_keepsSound
  | pvAdvance e => exact execPvAdvance_keepsSound e
  | rcMiss e => exact performEvent_keepsSound .rcMiss e
  | rcHit e => exact execRcHit_keepsSound e
  | pvDone => exact performAuto_keepsSound .pvDone
  | rcDone => exact performAuto_keepsSound .rcDone
  | reportSuccess => exact performAuto_keepsSound .reportSuccess
  | reportFailure => exact performAuto_keepsSound .reportFailure
  | record b c => exact keepsSound_next (addScore_keepsSound c)
  | reset => exact keepsSound_next fun s ⟨_, _, _, _, _, _, hsizes⟩ => ⟨sound_resetBlock hsizes s.events, rfl⟩

/-- A step cut short ends as RESET leaves it, with the parameters the replayed cycles kept (R264). -/
theorem perform_keepsSound (cut : Option Cut) (i : Instr) : Keeps KeepsSound (perform cut i) := by
  cases cut with
  | none => exact exec_keepsSound i
  | some c =>
    intro s t h hs
    obtain ⟨n, ws, sw, es, v, hv, rfl⟩ := cutShort_eq_next h
    obtain ⟨hsound, hcfg⟩ := replay_keepsSound ws _ v hv hs
    obtain ⟨-, -, -, -, -, -, hsizes⟩ := hsound
    exact ⟨sound_resetBlock hsizes es, hcfg⟩

theorem runCommand_keepsSound (c : Cmd) : Keeps KeepsSound (runCommand c) := by
  intro s t h
  unfold runCommand at h
  split at h
  · exact perform_keepsSound c.cut _ s t h
  · cases h

/-- Settles O55: with no command lined up nothing changes, and a command is performed from a state that differs in
nothing the invariant speaks of. -/
theorem stepKeepsSound : Obligations.StepKeepsSound := by
  intro s t hs h
  obtain ⟨-, h⟩ := refuseState_eq_next.mp h
  split at h
  · cases h
    exact ⟨hs, rfl⟩
  · next c rest _ => exact runCommand_keepsSound c (beginStep c rest s) t h hs

end Sys2Proof.Machine
end

section
/-! SUPPORT and PROOFS. The debounce family (41_debounce.md): DEBOUNCE and EMIT by themselves, and a poll as one lane
sees it: the lane fires, or the poll is silent about it and its level stays (R142). -/

namespace Sys2Proof.Machine

/-! ### The operations -/

/-- The state after a poll that sees the switches `sw`, with the events returned (R141). -/
def polled (sw : Pattern) (s : State) : State :=
  { afterPoll s.freeHi (Config.freeHigh s.freeCtr) (s.freeCtr + 1) { s with sw := sw } with
    ret := .events (pollEvents s.deb s.lastRaw sw s.tick) }

@[simp] theorem polled_deb (sw : Pattern) (s : State) : (polled sw s).deb = debounced s.deb s.lastRaw sw := rfl

theorem inputsOff_polled {sw : Pattern} {s : State} (h : inputsOff s) : inputsOff (polled sw s) := h

theorem execSample_next {sw : Pattern} {s : State} (h : inputsOff s) (hn : 2 ≤ s.cfg.settleCycles) :
    execSample { s with sw := sw } = .next (polled sw s) := by
  rw [execSample, sampleOp_next (s := { s with sw := sw }) h hn, andThen_next]
  rfl

theorem pollsOf_cons {sw : Pattern} {rest : List Pattern} {s : State} (h : inputsOff s)
    (hn : 2 ≤ s.cfg.settleCycles) :
    pollsOf (sw :: rest) s = (pollsOf rest (polled sw s)).map fun r => ((polled sw s).events ++ r.1, r.2) := by
  rw [pollsOf, exec, execSample_next h hn]

theorem execDebounce_next {i : Index} (raw : Pattern) (s : State) (h : i.toNat ≤ 9) :
    execDebounce i raw s = .next (debounceLane raw i.toNat s) :=
  if_pos (onBoard_eq_true_iff.mpr h)

theorem execEmit_next {i : Index} (b : Bool) (s : State) (h : i.toNat ≤ 9) :
    execEmit i b s = .next (emitEvent i b s) :=
  if_pos (onBoard_eq_true_iff.mpr h)

/-! ### One lane of a poll -/

theorem laneFires_eq_true_iff {deb last raw : Pattern} {j : Nat} :
    laneFires deb last raw j = true ↔ raw.getLsbD j = last.getLsbD j ∧ raw.getLsbD j ≠ deb.getLsbD j := by
  simp [laneFires]

theorem laneFires_eq_false_iff {deb last raw : Pattern} {j : Nat} :
    laneFires deb last raw j = false ↔ raw.getLsbD j ≠ last.getLsbD j ∨ raw.getLsbD j = deb.getLsbD j := by
  rw [← Bool.not_eq_true, laneFires_eq_true_iff, not_and_or, not_not]

/-- A lane changes its level exactly when it fires. -/
theorem getLsbD_debounced_eq_ite {deb last raw : Pattern} {j : Nat} (hj : j < 10) :
    (debounced deb last raw).getLsbD j = if laneFires deb last raw j then raw.getLsbD j else deb.getLsbD j := by
  rw [getLsbD_debounced _ _ _ _ hj]
  cases hf : laneFires deb last raw j with
  | true =>
    obtain ⟨hlast, -⟩ := laneFires_eq_true_iff.mp hf
    exact if_pos hlast
  | false =>
    obtain hlast | hdeb := laneFires_eq_false_iff.mp hf
    · exact if_neg hlast
    · rw [hdeb, ite_self]
      rfl

/-- A button of the board is the index of one lane. -/
theorem filter_lanes_button {i : Index} (hi : i.toNat ≤ 9) :
    (List.range 10).filter (fun j => BitVec.ofNat 4 j == i) = [i.toNat] := by
  have hsame : ∀ j ∈ List.range 10, (BitVec.ofNat 4 j == i) = (j == i.toNat) := by
    intro j hj
    have hlt : j < 2 ^ 4 := (List.mem_range.mp hj).trans (by decide)
    rw [Bool.eq_iff_iff, beq_iff_eq, beq_iff_eq, ← BitVec.toNat_inj, BitVec.toNat_ofNat, Nat.mod_eq_of_lt hlt]
  have hlane : i.toNat ∈ List.range 10 := List.mem_range.mpr (by omega)
  rw [List.filter_congr hsame, List.filter_beq, List.count_eq_one_of_mem List.nodup_range hlane, List.replicate_one]

/-- A lane that fires gives one event, with the level read. -/
theorem filter_pollEvents_of_fires {deb last raw : Pattern} {i : Index} (ts : Stamp) (hi : i.toNat ≤ 9)
    (h : laneFires deb last raw i.toNat = true) :
    (pollEvents deb last raw ts).filter (fun e => e.button == i) = [⟨ts, raw.getLsbD i.toNat, i⟩] := by
  have hlane : ((List.range 10).filter (laneFires deb last raw)).filter (fun j => BitVec.ofNat 4 j == i) =
      [i.toNat] := by
    rw [List.filter_comm, filter_lanes_button hi, List.filter_singleton, h]
    rfl
  rw [pollEvents, List.filter_map]
  simp only [Function.comp_def, hlane]
  simp

/-- A poll is silent about a lane that does not fire, and the lane keeps its level. -/
theorem polled_silent {sw : Pattern} {s : State} {i : Index} (hi : i.toNat ≤ 9)
    (h : laneFires s.deb s.lastRaw sw i.toNat = false) :
    (∀ e ∈ (polled sw s).events, e.button ≠ i) ∧ (polled sw s).deb.getLsbD i.toNat = s.deb.getLsbD i.toNat := by
  constructor
  · rintro e he rfl
    obtain ⟨-, -, -, hfires⟩ := mem_pollEvents he
    exact Bool.false_ne_true (h.symm.trans hfires)
  · rw [polled_deb, getLsbD_debounced_eq_ite (by omega), h]
    rfl

/-- A poll reports a lane that fires once, and the lane takes the level read. -/
theorem polled_fires {sw : Pattern} {s : State} {i : Index} (hi : i.toNat ≤ 9)
    (h : laneFires s.deb s.lastRaw sw i.toNat = true) :
    (polled sw s).events.filter (fun e => e.button == i) = [⟨s.tick, sw.getLsbD i.toNat, i⟩] ∧
      (polled sw s).deb.getLsbD i.toNat = sw.getLsbD i.toNat := by
  refine ⟨filter_pollEvents_of_fires s.tick hi h, ?_⟩
  rw [polled_deb, getLsbD_debounced_eq_ite (by omega), h]
  rfl

/-- However many polls read a lane at the level last reported, all are silent about it (R147). -/
theorem pollsOf_silent {i : Index} (hi : i.toNat ≤ 9) {sws : List Pattern} {s : State} (h : inputsOff s)
    (hn : 2 ≤ s.cfg.settleCycles) (hsws : ∀ c ∈ sws, c.getLsbD i.toNat = s.deb.getLsbD i.toNat) :
    ∃ es t, pollsOf sws s = some (es, t) ∧ (∀ e ∈ es, e.button ≠ i) ∧
      t.deb.getLsbD i.toNat = s.deb.getLsbD i.toNat := by
  induction sws generalizing s with
  | nil => exact ⟨[], s, rfl, nofun, rfl⟩
  | cons c rest ih =>
    obtain ⟨hc, hrest⟩ := List.forall_mem_cons.mp hsws
    obtain ⟨hevents, hdeb⟩ := polled_silent hi (laneFires_eq_false_iff.mpr (.inr hc))
    obtain ⟨es, t, hpolls, hes, ht⟩ := ih (inputsOff_polled h) hn fun d hd => (hrest d hd).trans hdeb.symm
    refine ⟨(polled c s).events ++ es, t, ?_, List.forall_mem_append.mpr ⟨hevents, hes⟩, ht.trans hdeb⟩
    rw [pollsOf_cons h hn, hpolls, Option.map_some]

/-! ### The statements -/

/-- Settles O14: the bit that a lane writes is its own. -/
theorem debounceConfirmsLevel : Obligations.DebounceConfirmsLevel := by
  intro i raw s hi
  rw [exec, execDebounce_next raw s hi, debounceLane_eq]
  constructor
  · intro hfires
    refine ⟨putBit s.deb i.toNat (raw.getLsbD i.toNat), fun j => ?_, by simp [hfires, laneEvent]⟩
    rw [getLsbD_putBit (by omega)]
    exact ite_congr rfl (fun hj => by rw [hj]) fun _ => rfl
  · intro hsilent
    simp [hsilent]

/-- Settles O15: EMIT is refused for no button of the board. -/
theorem emitAppendsOneRecord : Obligations.EmitAppendsOneRecord :=
  fun _ b s hi => execEmit_next b s hi

/-- Settles O13: the unused lines show what the model holds for them, and then another free value. -/
theorem sampleDebouncesAndReports : Obligations.SampleDebouncesAndReports :=
  fun s h hn => ⟨s.freeHi, Config.freeHigh s.freeCtr, s.freeCtr + 1, execSample_next h hn⟩

/-- Settles O17: the first poll reads another level than the poll before it, the second the level last reported, so the
lane fires in neither. -/
theorem onePollGlitchIsSilent : Obligations.OnePollGlitchIsSilent := by
  intro s t u a b i hi h hn hlast ha hb ht hu
  obtain rfl : polled a s = t := Host.Outcome.next.inj ((execSample_next h hn).symm.trans ht)
  obtain rfl : polled b (polled a s) = u :=
    Host.Outcome.next.inj ((execSample_next (inputsOff_polled h) hn).symm.trans hu)
  have hglitch : a.getLsbD i.toNat ≠ s.lastRaw.getLsbD i.toNat := by rwa [hlast]
  obtain ⟨hfirst, hkept⟩ := polled_silent hi (laneFires_eq_false_iff.mpr (.inl hglitch))
  have hreturn : b.getLsbD i.toNat = (polled a s).deb.getLsbD i.toNat := hb.trans hkept.symm
  obtain ⟨hsecond, hkept'⟩ := polled_silent hi (laneFires_eq_false_iff.mpr (.inr hreturn))
  exact ⟨List.forall_mem_append.mpr ⟨hfirst, hsecond⟩, hkept'.trans hkept⟩

/-- Settles O18: the first poll reads another level than the poll before it, the second the same again, and every later
one the level then reported. -/
theorem twoPollPressIsReportedOnce : Obligations.TwoPollPressIsReportedOnce := by
  intro s a b held i hi h hn hdeb hlast ha hb hheld
  have hnew : a.getLsbD i.toNat ≠ s.lastRaw.getLsbD i.toNat := by simp [ha, hlast]
  obtain ⟨hfirst, hkept⟩ := polled_silent hi (laneFires_eq_false_iff.mpr (.inl hnew))
  have hpress : b.getLsbD i.toNat ≠ (polled a s).deb.getLsbD i.toNat := by rw [hb, hkept, hdeb]; decide
  obtain ⟨hsecond, htaken⟩ := polled_fires hi (laneFires_eq_true_iff.mpr ⟨hb.trans ha.symm, hpress⟩)
  rw [hb] at hsecond htaken
  obtain ⟨es, v, hpolls, hes, hv⟩ := pollsOf_silent hi (s := polled b (polled a s))
    (inputsOff_polled (inputsOff_polled h)) hn fun c hc => (hheld c hc).trans htaken.symm
  exact ⟨polled a s, polled b (polled a s), v, es, execSample_next h hn, execSample_next (inputsOff_polled h) hn,
    hpolls, hfirst, hsecond, hes, htaken, hv.trans htaken⟩

end Sys2Proof.Machine
end

section
/-! SUPPORT and PROOFS. The generator family (42_mapping_generator.md): which words make an attempt the identity (R166),
how far the bound on attempts reaches (log 4), and what each of the four operations leaves. -/

namespace Sys2Proof.Machine

/-! ### The operations -/

theorem exec_generate (s : State) : exec .generate s = generateOp s := rfl

theorem exec_gCheck_next {s : State} (h : s.nact.toNat ≤ 10) :
    exec .gCheck s = .next { s with ret := .bit (mapIsIdentity s) } := if_pos h

theorem exec_gCheck_refused {s : State} (h : 10 < s.nact.toNat) : exec .gCheck s = .refused .mapIndex :=
  if_neg (Nat.not_le.mpr h)

/-! ### An attempt by the words lined up -/

/-- The draws of the first attempt, as the statements count them (R162, R166). -/
theorem drawsIdentity_iff_draws {n : Nat} {s : State} (h10 : n ≤ 10) (hl : n - 1 ≤ s.rand.length) :
    drawsIdentity (n - 1) s ↔
      ∀ k : Fin 9, k.val + 1 < n → (s.rand.getD k.val 0#8).toNat % (n - k.val) = n - 1 - k.val := by
  rw [drawsIdentity_iff_words hl]
  have hmodulus : ∀ k, k < n - 1 → n - 1 + 1 - k = n - k := by omega
  constructor
  · intro h k hk
    rw [← hmodulus k (by omega)]
    exact h k (by omega)
  · intro h k hk
    rw [hmodulus k hk]
    exact h ⟨k, by omega⟩ (by show k + 1 < n; omega)

theorem not_drawsIdentity_of_goodAttempt {n : Nat} {s : State} (h10 : n ≤ 10) (h : goodAttempt n s.rand) :
    ¬ drawsIdentity (n - 1) s := by
  obtain ⟨hl, k, hk, hne⟩ := h
  exact fun hd => hne ((drawsIdentity_iff_draws h10 hl).mp hd k hk)

theorem drawsIdentity_of_identityAttempt {n : Nat} {s : State} (h10 : n ≤ 10) (h : identityAttempt n s.rand) :
    drawsIdentity (n - 1) s :=
  (drawsIdentity_iff_draws h10 h.1).mpr h.2

/-- The map of the first attempt is what its words draw of the identity (R160, R161). -/
theorem shuffleMap_initMap {n : Nat} {s : State} (h10 : n ≤ 10) (hl : n - 1 ≤ s.rand.length) :
    shuffleMap (n - 1) (initMap s) = drawnMap (n - 1) s.rand ownPositions := by
  rw [ownPositions_eq]
  exact shuffleMap_eq_drawnMap (s := initMap s) hl (by omega)

/-! ### Attempts and their bound -/

/-- An attempt begins with G_INIT, so the map before it is lost (R160, R161). -/
theorem attempts_withMap (n : Nat) (m : Vector Index 10) (s : State) :
    attempts n { s with map := m } = attempts n s := by
  cases n with
  | zero => rfl
  | succ n => rfl

/-- With one active position or none a shuffle draws nothing, so every attempt is the identity (R166). -/
theorem attempts_fault {n : Nat} {s : State} (h : s.nact.toNat ≤ 1) : attempts n s = .fault .generateUnended := by
  induction n generalizing s with
  | zero => rfl
  | succ n ih =>
    have hnone : drawsIdentity (s.nact.toNat - 1) s := by
      rw [Nat.sub_eq_zero_of_le h]
      trivial
    rw [attempts_rejected (by omega) hnone]
    exact ih h

/-- With a word lined up the bound admits a first attempt (log 4). -/
theorem generateOp_of_pos {s : State} (h : 0 < s.rand.length) :
    generateOp s = attempts (s.rand.length - 1 + s.cfg.attemptFuel + 1) s := by
  rw [generateOp]
  congr 1
  omega

/-- GENERATE whose first attempt is no identity ends with it (R160, R166). -/
theorem generateOp_goodAttempt {s : State} (h2 : 2 ≤ s.nact.toNat) (h10 : s.nact.toNat ≤ 10)
    (h : goodAttempt s.nact.toNat s.rand) :
    generateOp s = .next { s with
      map := drawnMap (s.nact.toNat - 1) s.rand ownPositions
      rand := s.rand.drop (s.nact.toNat - 1)
      randPos := s.randPos + (s.nact.toNat - 1) } := by
  have hl : s.nact.toNat - 1 ≤ s.rand.length := h.1
  rw [generateOp_of_pos (by omega), attempts_first (by omega) h10 (not_drawsIdentity_of_goodAttempt h10 h),
    shuffleMap_initMap h10 hl]

/-! ### The statements -/

/-- Settles O21: every attempt that is not rejected leaves such a map. -/
theorem generateLeavesLegalMapping : Obligations.GenerateLeavesLegalMapping := by
  intro s t h2 _ h
  obtain ⟨-, hlegal, hframe⟩ := attempts_spec (by omega) ((exec_generate s).symm.trans h)
  exact ⟨hlegal, hframe⟩

/-- Settles O22: the first attempt is taken, and its map is legal as every map that GENERATE ends with. -/
theorem generateEndsOnGoodWords : Obligations.GenerateEndsOnGoodWords := by
  intro s h2 h10 h
  have hnext := generateOp_goodAttempt h2 h10 h
  exact ⟨(generateLeavesLegalMapping s _ h2 h10 hnext).1, hnext⟩

/-- Settles O23: the attempts left after the rejected one are no fewer than those of GENERATE begun after its words, and
the rejected map is lost. -/
theorem generateRejectsIdentity : Obligations.GenerateRejectsIdentity := by
  intro s t h2 h10 h hlater
  have hl : s.nact.toNat - 1 ≤ s.rand.length := h.1
  rw [exec_generate, generateOp, List.length_drop] at hlater
  have hmore := attempts_mono (k := s.nact.toNat - 2) hlater
  have hbound : s.rand.length - (s.nact.toNat - 1) + s.cfg.attemptFuel + (s.nact.toNat - 2) =
      s.rand.length - 1 + s.cfg.attemptFuel := by omega
  rw [exec_generate, generateOp_of_pos (by omega),
    attempts_rejected h10 (drawsIdentity_of_identityAttempt h10 h), ← hbound]
  exact (attempts_withMap _ _ _).trans hmore

/-- Settles O24: whatever the bound, it is used up. -/
theorem generateOfOnePositionHangs : Obligations.GenerateOfOnePositionHangs :=
  fun s h => (exec_generate s).trans (attempts_fault h)

/-- Settles O19: both indices are on the board, so the entries are exchanged. -/
theorem swapExchangesEntries : Obligations.SwapExchangesEntries :=
  fun i j s hi hj => ⟨swapMap s.map i.toNat j.toNat, swapEntries_next hi hj,
    fun k => swapMap_get hi hj k.val k.isLt⟩

/-- Settles O20: G_CHECK answers what `mapIsIdentity` says of the active entries. -/
theorem mappingInitAndCheck : Obligations.MappingInitAndCheck := by
  intro s
  refine ⟨⟨identityMap, rfl, fun i => identityMap_get i.val i.isLt⟩, fun h => ?_, exec_gCheck_refused⟩
  refine ⟨mapIsIdentity s, exec_gCheck_next h, (mapIsIdentity_iff h).trans ?_⟩
  exact ⟨fun hall i hi => hall i.val i.isLt hi, fun hall k hk hlt => hall ⟨k, hk⟩ hlt⟩

end Sys2Proof.Machine
end

section
/-! SUPPORT and PROOFS. The controller family (43_game_fsm.md): the event and the automatic operations by themselves, the
requests, and AUTO as a loop whose rank falls with each operation (R196). -/

namespace Sys2Proof.Machine

/-! ### Operations performed as commands (log 10) -/

theorem exec_evOp_instr (op : EvOp) (e : EventRec) (s : State) : exec (op.instr e) s = performEvent op e s := by
  cases op <;> rfl

theorem exec_autoOp_instr (op : AutoOp) (s : State) : exec op.instr s = performAuto op s := by
  cases op <;> rfl

theorem execPvDone_next {s : State} (h : inputsOff s) :
    execPvDone s = .next { afterLight 0x000#10 s with rstate := stRecall, rcur := 0#4 } := by
  rw [execPvDone, lightOp_next (by exact h), andThen_next]
  rfl

/-- Settles O27: each of the three writes the registers it names. -/
theorem requestsOutsideRounds : Obligations.RequestsOutsideRounds :=
  fun _ => ⟨rfl, rfl, rfl⟩

/-- Settles O29: four of them return the state they are given, the two others write `RSTATE`. -/
theorem operationsWithoutLights : Obligations.OperationsWithoutLights :=
  fun _ _ => ⟨rfl, rfl, rfl, rfl, rfl, rfl⟩

/-- Settles O30: the light is added to no light. -/
theorem previewAdvanceLightsMapping : Obligations.PreviewAdvanceLightsMapping := by
  intro e s l hoff hentry hl
  rw [exec, execPvAdvance_next e hoff hentry hl, BitVec.zero_or]

/-- Settles O31: the entry of the button is a light of the board. -/
theorem recallHitAddsLight : Obligations.RecallHitAddsLight :=
  fun _ _ _ hoff hentry hl => execRcHit_next hoff hentry hl

/-- Settles O32: the two registers it writes are none that lighting reads. -/
theorem previewDoneExtinguishes : Obligations.PreviewDoneExtinguishes :=
  fun _ hoff => execPvDone_next hoff

/-- Settles O33: both are the end of a round, with the count of their own cursor. -/
theorem reportsEndTheRound : Obligations.ReportsEndTheRound :=
  fun _ => ⟨rfl, rfl⟩

/-! ### START (R181, R182) -/

theorem execStart_outsideIdle (d : BitVec 2) {s : State} (hcode : s.rstate.toNat ≤ 4) (h : s.rstate ≠ stIdle) :
    execStart d s = .next s := by
  rw [execStart, if_neg (by omega), if_neg h]

theorem execStart_reservedDifficulty {s : State} (hcode : s.rstate.toNat ≤ 4) : execStart 3#2 s = .next s := by
  rw [execStart, if_neg (by omega)]
  exact ite_self _

theorem execStart_accepted {d : BitVec 2} {n : Nat} {s : State} (hs : s.rstate = stIdle)
    (ha : activeSize s.cfg d = some n) (h2 : 2 ≤ n) (h10 : n ≤ 10) : execStart d s = startRound d n s := by
  have hcode : ¬ 5 ≤ s.rstate.toNat := by rw [hs]; decide
  simp only [execStart, if_neg hcode, if_pos hs, ha, if_pos (And.intro h2 h10)]

/-- Settles O26: the reserved difficulty has no active size. -/
theorem startRefusedChangesNothing : Obligations.StartRefusedChangesNothing := by
  rintro d s hcode (hs | rfl)
  · exact execStart_outsideIdle d hcode hs
  · exact execStart_reservedDifficulty hcode

/-- Once a mapping is found the lights go out and the round waits in PREVIEW: its cursor is not full (R181, R240). -/
theorem startRound_next {d : BitVec 2} {n : Nat} {s u : State}
    (hu : generateOp { s with diff := d, nact := BitVec.ofNat 4 n } = .next u) (hoff : inputsOff u)
    (hfull : 0#4 ≠ u.nact) :
    startRound d n s = .next { afterLight 0x000#10 (beginRound u) with rstate := stPreview } := by
  rw [startRound, hu, andThen_next, lightOp_next (by exact hoff), andThen_next]
  exact autoOp_preview rfl hfull

/-- Settles O25: GENERATE ends with its first attempt, from the state that holds the new difficulty and size. -/
theorem startBeginsRound : Obligations.StartBeginsRound := by
  intro d n s hidle hsize h2 h10 hoff hgood
  have hn : (BitVec.ofNat 4 n).toNat = n := toNat_activeCount h10
  have hfull : 0#4 ≠ BitVec.ofNat 4 n := by
    rintro e
    rw [← e, BitVec.toNat_ofNat] at hn
    omega
  obtain ⟨hlegal, hgen⟩ := generateEndsOnGoodWords { s with diff := d, nact := BitVec.ofNat 4 n }
    (by rw [hn]; exact h2) (by rw [hn]; exact h10) (by rw [hn]; exact hgood)
  rw [exec_generate] at hgen
  simp only [hn] at hlegal hgen
  refine ⟨hlegal, (execStart_accepted hidle hsize h2 h10).trans ?_⟩
  exact startRound_next hgen hoff hfull

/-! ### AUTO (R196) -/

/-- How many automatic operations can still follow in a state: PREVIEW, RECALL, SUCCESS or FAILURE, IDLE (R196). -/
def autoRank (r : RState) : Nat :=
  if r = stPreview then 3 else if r = stRecall then 2 else if r = stIdle then 0 else 1

theorem autoRank_le_three (r : RState) : autoRank r ≤ 3 := by
  unfold autoRank
  split_ifs <;> omega

/-- The five codes of R87. -/
theorem rstate_cases {r : RState} (h : r.toNat ≤ 4) :
    r = stIdle ∨ r = stPreview ∨ r = stRecall ∨ r = stSuccess ∨ r = stFailure := by
  revert r
  decide

/-- No automatic operation is left to perform, and the state is one of those that wait. -/
def Quiet (s : State) : Prop := selectAuto (autoKey s) = none ∧ s.rstate.toNat ≤ 2

/-- SUCCESS and FAILURE always have an automatic operation to perform. -/
theorem quiet_of_selectAuto_eq_none {s : State} (hcode : s.rstate.toNat ≤ 4) (h : selectAuto (autoKey s) = none) :
    Quiet s := by
  refine ⟨h, ?_⟩
  obtain e | e | e | e | e := rstate_cases hcode
  · rw [e]; decide
  · rw [e]; decide
  · rw [e]; decide
  · rw [selectAuto_success e] at h; cases h
  · rw [selectAuto_failure e] at h; cases h

/-- An automatic operation is selected in one state only (R86). -/
theorem rstate_of_selectAuto {s : State} {op : AutoOp} (hcode : s.rstate.toNat ≤ 4)
    (h : selectAuto (autoKey s) = some op) :
    (op = .pvDone ∧ s.rstate = stPreview) ∨ (op = .rcDone ∧ s.rstate = stRecall) ∨
      (op = .reportSuccess ∧ s.rstate = stSuccess) ∨ (op = .reportFailure ∧ s.rstate = stFailure) := by
  obtain e | e | e | e | e := rstate_cases hcode
  · rw [selectAuto_idle e] at h; cases h
  · rw [selectAuto_preview e] at h
    split_ifs at h
    cases h
    exact .inl ⟨rfl, e⟩
  · rw [selectAuto_recall e] at h
    split_ifs at h
    cases h
    exact .inr (.inl ⟨rfl, e⟩)
  · rw [selectAuto_success e] at h
    cases h
    exact .inr (.inr (.inl ⟨rfl, e⟩))
  · rw [selectAuto_failure e] at h
    cases h
    exact .inr (.inr (.inr ⟨rfl, e⟩))

/-- The automatic operation selected ends, and the rank falls (R189, R193 to R195). -/
theorem performAuto_selected {s : State} {op : AutoOp} (hcode : s.rstate.toNat ≤ 4) (hoff : inputsOff s)
    (h : selectAuto (autoKey s) = some op) :
    ∃ t, performAuto op s = .next t ∧ t.rstate.toNat ≤ 4 ∧ inputsOff t ∧ autoRank t.rstate < autoRank s.rstate := by
  obtain ⟨rfl, e⟩ | ⟨rfl, e⟩ | ⟨rfl, e⟩ | ⟨rfl, e⟩ := rstate_of_selectAuto hcode h <;> rw [e]
  · exact ⟨_, execPvDone_next hoff, (by decide : stRecall.toNat ≤ 4), hoff,
      (by decide : autoRank stRecall < autoRank stPreview)⟩
  · exact ⟨_, rfl, (by decide : stSuccess.toNat ≤ 4), hoff, (by decide : autoRank stSuccess < autoRank stRecall)⟩
  · exact ⟨_, rfl, (by decide : stIdle.toNat ≤ 4), hoff, (by decide : autoRank stIdle < autoRank stSuccess)⟩
  · exact ⟨_, rfl, (by decide : stIdle.toNat ≤ 4), hoff, (by decide : autoRank stIdle < autoRank stFailure)⟩

/-- As many rounds as the rank see the loop end, and more of them change nothing (R196; log 23). -/
theorem autoLoop_ends {n : Nat} {s : State} (hcode : s.rstate.toNat ≤ 4) (hoff : inputsOff s)
    (hn : autoRank s.rstate ≤ n) : ∃ t, Quiet t ∧ ∀ k, autoLoop (n + k) s = .next t := by
  induction n generalizing s with
  | zero =>
    cases h : selectAuto (autoKey s) with
    | none => exact ⟨s, quiet_of_selectAuto_eq_none hcode h, fun _ => autoLoop_quiet h hcode⟩
    | some op =>
      obtain ⟨_, -, -, -, hrank⟩ := performAuto_selected hcode hoff h
      omega
  | succ n ih =>
    cases h : selectAuto (autoKey s) with
    | none => exact ⟨s, quiet_of_selectAuto_eq_none hcode h, fun _ => autoLoop_quiet h hcode⟩
    | some op =>
      obtain ⟨u, hu, hucode, huoff, hrank⟩ := performAuto_selected hcode hoff h
      obtain ⟨t, ht, hloop⟩ := ih hucode huoff (by omega)
      refine ⟨t, ht, fun k => ?_⟩
      rw [Nat.add_right_comm, autoLoop_performs h, hu, andThen_next]
      exact hloop k

/-- Settles O35: the rank is 3 at most, and the bound of four reaches past it by one operation. -/
theorem autoRunsToQuiet : Obligations.AutoRunsToQuiet := by
  intro s hcode hoff
  refine ⟨?ends, fun h => autoLoop_quiet h hcode, ?goesOn⟩
  case ends =>
    obtain ⟨t, ⟨hquiet, hwaits⟩, hloop⟩ := autoLoop_ends hcode hoff (autoRank_le_three s.rstate)
    exact ⟨t, hloop 1, hquiet, hwaits⟩
  case goesOn =>
    intro op t h ht
    obtain ⟨u, hu, hucode, huoff, -⟩ := performAuto_selected hcode hoff h
    obtain rfl : u = t := Host.Outcome.next.inj (hu.symm.trans ((exec_autoOp_instr op s).symm.trans ht))
    obtain ⟨v, -, hloop⟩ := autoLoop_ends hucode huoff (autoRank_le_three u.rstate)
    calc autoLoop 4 s = autoLoop 3 u := by rw [autoLoop_performs h, hu, andThen_next]
      _ = .next v := hloop 0
      _ = autoLoop 4 u := (hloop 1).symm

end Sys2Proof.Machine
end

section
/-! SUPPORT and PROOFS. The controller family (43_game_fsm.md): DISPATCH of one event, by the state it meets (R184), and of
a sequence of presses in RECALL (R199). -/

namespace Sys2Proof.Machine

/-! ### What DISPATCH performs (R184, R85) -/

/-- The comparator of the statements is that of the model. -/
theorem hitBit_of_comparator {s : State} {e : EventRec} {hit : Bool} (h : comparator s e hit) :
    hitBit s e = .ok hit := by
  obtain ⟨hs, rfl⟩ | ⟨hs, rfl⟩ | ⟨hs, l, hentry, hl, rfl⟩ := h
  · exact hitBit_idle e hs
  · exact hitBit_preview e hs
  · exact hitBit_recall hs hentry hl

/-- Settles O36: DISPATCH is the operation selected and then AUTO, and a stop of the first stops both. -/
theorem dispatchPerformsSelected : Obligations.DispatchPerformsSelected := by
  intro e s hit op hbutton hcomp hsel
  have h : exec (.dispatch e) s = andThen (exec (op.instr e) s) autoOp := by
    rw [exec_evOp_instr]
    exact dispatchOp_selected hbutton (hitBit_of_comparator hcomp) hsel
  refine ⟨fun t ht => ?_, fun x hx => ?_, fun x hx => ?_⟩
  · rw [h, ht, andThen_next]
    rfl
  · rw [h, hx, andThen_fault]
  · rw [h, hx, andThen_refused]

/-- DISPATCH of an event whose operation ends goes on with AUTO from there. -/
theorem dispatchOp_performed {e : EventRec} {s u : State} {hit : Bool} {op : EvOp} (hb : e.button.toNat ≤ 9)
    (hh : hitBit s e = .ok hit) (hs : selectEvent (eventKey s e hit) = some op) (hu : performEvent op e s = .next u) :
    dispatchOp e s = autoOp u := by
  rw [dispatchOp_selected hb hh hs, hu, andThen_next]

/-! ### Events that change nothing -/

theorem dispatchOp_idle {e : EventRec} {s : State} (hb : e.button.toNat ≤ 9) (h : s.rstate = stIdle) :
    dispatchOp e s = .next s :=
  (dispatchOp_performed hb (hitBit_idle e h) (selectEvent_idle e h false) rfl).trans (autoOp_idle h)

/-- In PREVIEW a release, and a press of another button than the expected one, change nothing (R187, R188). -/
theorem dispatchOp_preview_ignored {e : EventRec} {s : State} (hb : e.button.toNat ≤ 9) (h : s.rstate = stPreview)
    (hc : s.pcur ≠ s.nact) (he : e.tr = false ∨ e.button ≠ s.pcur) : dispatchOp e s = .next s := by
  have hsame : performEvent (if !e.tr then .pvRelease else if e.button == s.pcur then .pvAdvance else .pvIgnore) e s =
      .next s := by
    obtain htr | hother := he
    · rw [htr]
      rfl
    · rw [beq_false_of_ne hother]
      cases e.tr <;> rfl
  exact (dispatchOp_performed hb (hitBit_preview e h) (selectEvent_preview e h _) hsame).trans (autoOp_preview h hc)

/-- In RECALL a release changes nothing (R192). -/
theorem dispatchOp_recall_release {e : EventRec} {s : State} {l : Index} (h : s.rstate = stRecall)
    (hc : s.rcur ≠ s.nact) (htr : e.tr = false) (hb : e.button.toNat ≤ 9) (hm : s.map[e.button.toNat]? = some l)
    (hl : l.toNat ≤ 9) : dispatchOp e s = .next s := by
  have hsel := selectEvent_recall e h (l == s.rcur)
  rw [htr] at hsel
  exact (dispatchOp_performed hb (hitBit_recall h hm hl) hsel rfl).trans (autoOp_recall h hc)

/-- Settles O37: the operation selected returns the state, in which AUTO has nothing to perform. -/
theorem dispatchOfIgnoredEvent : Obligations.DispatchOfIgnoredEvent := by
  intro e s hb
  refine ⟨dispatchOp_idle hb, dispatchOp_preview_ignored hb, fun h hc htr hentries => ?_⟩
  have hm : s.map[e.button.toNat]? = some (s.map[e.button.toNat]'(by omega)) := Vector.getElem?_eq_getElem _
  exact dispatchOp_recall_release h hc htr hb hm (hentries _ hm)

/-! ### Presses that count -/

/-- A button at which `MAP` has an entry is one of the board (R62). -/
theorem button_le_nine {s : State} {i l : Index} (h : s.map[i.toNat]? = some l) : i.toNat ≤ 9 :=
  onBoard_eq_true_iff.mp (onBoard_of_mapAt h)

/-- A cursor with positions left is not full (R86). -/
theorem ne_of_cursor_lt {c n : Index} (h : c.toNat < n.toNat) : c ≠ n := by
  rintro rfl
  omega

/-- A cursor that has positions left after its next one does not become full (R86). -/
theorem cursor_succ_ne {c n : Index} (h : c.toNat + 1 < n.toNat) : c + 1#4 ≠ n := by
  intro e
  have hnext : (c + 1#4).toNat = c.toNat + 1 := cursor_succ (Nat.lt_of_succ_lt h)
  rw [e] at hnext
  omega

/-- A cursor on the last position becomes full (R86). -/
theorem cursor_succ_eq {c n : Index} (h : c.toNat + 1 = n.toNat) : c + 1#4 = n :=
  BitVec.eq_of_toNat_eq ((cursor_succ (n := n) (by omega)).trans h)

/-- The expected press in PREVIEW shows its light and no other, and advances the cursor; then AUTO (R186). -/
theorem dispatchOp_preview_expected {e : EventRec} {s : State} {l : Index} (hoff : inputsOff s)
    (h : s.rstate = stPreview) (htr : e.tr = true) (hb : e.button = s.pcur) (hm : s.map[s.pcur.toNat]? = some l)
    (hl : l.toNat ≤ 9) :
    dispatchOp e s = autoOp { afterLight (1#10 <<< l.toNat) s with pcur := s.pcur + 1#4 } := by
  have hsel := selectEvent_preview e h true
  rw [htr] at hsel
  have hh : hitBit s e = .ok true := by rw [hitBit_preview e h, hb, beq_self_eq_true]
  refine dispatchOp_performed (hb ▸ button_le_nine hm) hh hsel ?_
  exact previewAdvanceLightsMapping e s l hoff hm hl

/-- Settles O38: the cursor moves on, and one that has become full lets AUTO perform PV_DONE. -/
theorem dispatchOfExpectedPress : Obligations.DispatchOfExpectedPress := by
  intro e s l hoff h hc h10 h2 htr hb hm hl
  have hpress := dispatchOp_preview_expected hoff h htr hb hm hl
  constructor
  · intro hmore
    exact hpress.trans (autoOp_preview h (cursor_succ_ne hmore))
  · intro hlast
    have hactive : s.nact ≠ 0#4 := by
      intro e
      simp [e] at h2
    rw [cursor_succ_eq hlast] at hpress
    exact hpress.trans (autoOp_previewDone (by exact hoff) (by exact h) rfl hactive)

/-- The expected press in RECALL adds its light and advances the cursor; then AUTO (R190). -/
theorem dispatchOp_recall_hit {e : EventRec} {s : State} {l : Index} (hoff : inputsOff s) (h : s.rstate = stRecall)
    (htr : e.tr = true) (hm : s.map[e.button.toNat]? = some l) (hl : l.toNat ≤ 9) (hit : l = s.rcur) :
    dispatchOp e s = autoOp { afterLight (s.lights ||| 1#10 <<< l.toNat) s with rcur := s.rcur + 1#4 } := by
  have hsel := selectEvent_recall e h true
  rw [htr] at hsel
  have hh : hitBit s e = .ok true := by rw [hitBit_recall h hm hl, hit, beq_self_eq_true]
  exact dispatchOp_performed (button_le_nine hm) hh hsel (execRcHit_next hoff hm hl)

/-- Another press in RECALL ends the round with Failure and the count so far (R191, R195). -/
theorem dispatchOp_recall_miss {e : EventRec} {s : State} {l : Index} (h : s.rstate = stRecall) (htr : e.tr = true)
    (hm : s.map[e.button.toNat]? = some l) (hl : l.toNat ≤ 9) (miss : l ≠ s.rcur) :
    dispatchOp e s = .next (endRound false s.rcur s) := by
  have hsel := selectEvent_recall e h false
  rw [htr] at hsel
  have hh : hitBit s e = .ok false := by rw [hitBit_recall h hm hl, beq_false_of_ne miss]
  refine (dispatchOp_performed (button_le_nine hm) hh hsel rfl).trans ?_
  exact autoLoop_failure (s := { s with rstate := stFailure }) rfl

/-- Settles O39: the cursor moves on, and one that has become full lets AUTO end the round. -/
theorem dispatchOfRecallPress : Obligations.DispatchOfRecallPress := by
  intro e s l hoff h hc h10 htr hm hl
  refine ⟨fun hit hmore => ?_, fun hit hlast => ?_, dispatchOp_recall_miss h htr hm hl⟩
  · exact (dispatchOp_recall_hit hoff h htr hm hl hit).trans (autoOp_recall h (cursor_succ_ne hmore))
  · have hpress := dispatchOp_recall_hit hoff h htr hm hl hit
    rw [cursor_succ_eq hlast] at hpress
    exact hpress.trans (autoLoop_recallDone (by exact h) rfl)

/-! ### A sequence of presses in RECALL (R199) -/

/-- A round that waits in RECALL at cursor `c`: besides the cursor nothing of the round `s` has changed. -/
structure RecallAt (s : State) (c : Nat) (t : State) : Prop where
  rstate : t.rstate = stRecall
  rcur : t.rcur = BitVec.ofNat 4 c
  inputsOff : inputsOff t
  map : t.map = s.map
  nact : t.nact = s.nact
  score : t.score = s.score
  cfg : t.cfg = s.cfg

theorem RecallAt.rcur_toNat {s t : State} {c : Nat} (h : RecallAt s c t) (hc : c ≤ 10) : t.rcur.toNat = c := by
  rw [h.rcur, toNat_activeCount hc]

theorem dispatchList_cons_next {e : EventRec} {rest : List EventRec} {s t : State}
    (h : exec (.dispatch e) s = .next t) : dispatchList (e :: rest) s = dispatchList rest t := by
  rw [dispatchList, h]

/-- The expected press, with positions left after it, moves the cursor on (R190). -/
theorem RecallAt.dispatch_hit {s t : State} {c : Nat} {e : EventRec} (h : RecallAt s c t) (h10 : s.nact.toNat ≤ 10)
    (hroom : c + 1 < s.nact.toNat) (htr : e.tr = true) (hm : s.map[e.button.toNat]? = some (BitVec.ofNat 4 c)) :
    ∃ u, exec (.dispatch e) t = .next u ∧ RecallAt s (c + 1) u := by
  have hcur := h.rcur_toNat (by omega)
  obtain ⟨hstate, hrcur, hoff, hmap, hnact, hscore, hcfg⟩ := h
  rw [← hmap, ← hrcur] at hm
  rw [← hnact] at h10 hroom
  obtain ⟨hmore, -⟩ := dispatchOfRecallPress e t t.rcur hoff hstate (by omega) h10 htr hm (by omega)
  refine ⟨_, hmore rfl (by omega), hstate, ?_, hoff, hmap, hnact, hscore, hcfg⟩
  show t.rcur + 1#4 = BitVec.ofNat 4 (c + 1)
  rw [hrcur, BitVec.ofNat_add]

/-- Expected presses one after another, too few to fill the cursor. -/
theorem RecallAt.dispatchList_hits {s : State} (h10 : s.nact.toNat ≤ 10) {hits : List EventRec}
    (rest : List EventRec) {c : Nat} {t : State} (h : RecallAt s c t) (hroom : c + hits.length < s.nact.toNat)
    (htr : ∀ e ∈ hits, e.tr = true)
    (hmap : ∀ k (hk : k < hits.length), s.map[(hits[k]).button.toNat]? = some (BitVec.ofNat 4 (c + k))) :
    ∃ u, dispatchList (hits ++ rest) t = dispatchList rest u ∧ RecallAt s (c + hits.length) u := by
  induction hits generalizing c t with
  | nil => exact ⟨t, rfl, h⟩
  | cons e hits ih =>
    rw [List.length_cons] at hroom
    obtain ⟨v, hv, hat⟩ := h.dispatch_hit h10 (by omega) (htr e (by simp)) (hmap 0 (by simp))
    obtain ⟨u, hu, hat'⟩ := ih hat (by omega) (fun x hx => htr x (by simp [hx])) fun k hk => by
      rw [Nat.add_right_comm]
      exact hmap (k + 1) (Nat.succ_lt_succ hk)
    refine ⟨u, (dispatchList_cons_next hv).trans hu, ?_⟩
    rwa [List.length_cons, Nat.add_comm hits.length, ← Nat.add_assoc]

/-- A round in RECALL has its mapping dealt (R48, R167). -/
theorem dealt_of_recall {s : State} (hb : Boundary s) (h : s.rstate = stRecall) : Dealt s := by
  obtain ⟨-, -, hnact, -, -, -, -, -, -, hmap⟩ := hb
  exact ⟨(hnact (.inr h)).1, (hnact (.inr h)).2, hmap (.inr h)⟩

/-- Settles O40: the presses before the last leave a RECALL whose cursor counts them, and the last one ends the round. -/
theorem recallLaw : Obligations.RecallLaw := by
  intro s hits last hb h hzero hroom hpresses hmap
  have hd := dealt_of_recall hb h
  have h10 := hd.le_ten
  obtain ⟨-, hrest, -⟩ := boundary_iff.mp hb
  have hstart : RecallAt s 0 s := ⟨h, hzero, hrest.inputsOff, rfl, rfl, rfl, rfl⟩
  obtain ⟨u, hu, hat⟩ := hstart.dispatchList_hits h10 (hits := hits) [last] (by omega)
    (fun e he => (hpresses e (by simp [he])).1) (by simpa using hmap)
  rw [Nat.zero_add] at hat
  have hcur := hat.rcur_toNat (by omega)
  obtain ⟨hstate, hrcur, hoff, humap, hnact, hscore, hcfg⟩ := hat
  obtain ⟨htr, hbutton⟩ := hpresses last (by simp)
  obtain ⟨l, hm, hl⟩ := hd.mapAt hbutton
  obtain ⟨-, hlast, hmiss⟩ := dispatchOfRecallPress last u l hoff hstate (by rw [hnact]; omega) (by rw [hnact]; exact h10)
    htr (by rw [humap]; exact hm) hl
  rw [hnact, hscore, hcfg] at hlast
  rw [← hrcur, show s.map[last.button.toNat]? = some l from hm]
  constructor
  · intro hit hfull
    have hpress := hlast (Option.some.inj hit) (by omega)
    exact ⟨_, hu.trans (dispatchList_cons_next hpress), rfl, rfl, rfl, rfl, rfl⟩
  · intro hother
    have hpress := hmiss fun e => hother (congrArg some e)
    refine ⟨_, hu.trans (dispatchList_cons_next hpress), rfl, rfl, rfl, rfl, ?_⟩
    rw [hscore, hcur, hcfg]

end Sys2Proof.Machine
end

section
/-! SUPPORT and PROOFS. The controller family (43_game_fsm.md): TICK as a poll and the DISPATCH of its events (R183), what
the event loop leaves alone, and the outcome a TICK can leave (R200). -/

namespace Sys2Proof.Machine

/-! ### The poll of a TICK -/

/-- SAMPLE counts the poll and leaves the switches, the controller and the returned value alone (R141). -/
theorem sampleOp_frame {s t : State} (h : sampleOp s = .next t) :
    t.tick = s.tick + 1#32 ∧ t.sw = s.sw ∧ t.rstate = s.rstate ∧ t.nact = s.nact ∧ t.ret = s.ret := by
  obtain ⟨u, hu, ht⟩ := andThen_eq_next.mp h
  obtain ⟨hpins, -⟩ := readSwitchesSeq_readOnly s u hu
  rw [pollSet_eq] at ht
  cases ht
  rw [hpins.eq]
  exact ⟨rfl, rfl, rfl, rfl, rfl⟩

/-- TICK, taken apart into its poll and its event loop (R183). -/
theorem execTick_eq_next {sw : Pattern} {s t : State} (h : execTick sw s = .next t) :
    ∃ u v, sampleOp { s with sw := sw } = .next u ∧ dispatchAll u.events u = .next v ∧ t = { v with lane := 0#4 } := by
  obtain ⟨u, hu, h⟩ := andThen_eq_next.mp h
  obtain ⟨v, hv, ht⟩ := andThen_eq_next.mp h
  cases ht
  exact ⟨u, v, hu, hv, rfl⟩

theorem execTick_next {sw : Pattern} {s u v : State} (hu : sampleOp { s with sw := sw } = .next u)
    (hv : dispatchAll u.events u = .next v) : execTick sw s = .next { v with lane := 0#4 } := by
  rw [execTick, hu, andThen_next, hv, andThen_next]

/-- A poll without an event is all there is of its TICK. -/
theorem execTick_eventless {sw : Pattern} {s u : State} (hu : sampleOp { s with sw := sw } = .next u)
    (he : u.events = []) : execTick sw s = .next { u with events := [], lane := 0#4 } := by
  have hloop : dispatchAll u.events u = .next u := by
    rw [he]
    rfl
  rw [execTick_next hu hloop, ← he]

theorem pollEvents_eq_nil {deb last raw : Pattern} (ts : Stamp)
    (h : ∀ i, i < 10 → laneFires deb last raw i = false) : pollEvents deb last raw ts = [] := by
  have hnone : (List.range 10).filter (laneFires deb last raw) = [] :=
    List.filter_eq_nil_iff.mpr fun i hi => by simp [h i (List.mem_range.mp hi)]
  rw [pollEvents, hnone, List.map_nil]

/-- Settles O43: no lane fires, so the event loop has nothing to dispatch. -/
theorem quietTickLeavesController : Obligations.QuietTickLeavesController := by
  intro sw s hoff hsettle hquiet
  have hpoll := sampleOp_next (s := { s with sw := sw }) hoff hsettle
  exact ⟨s.freeHi, Config.freeHigh s.freeCtr, s.freeCtr + 1,
    execTick_eventless hpoll (pollEvents_eq_nil s.tick hquiet)⟩

/-! ### TICK as SAMPLE and DISPATCH -/

/-- The event loop of TICK is DISPATCH of its events one after another, but for `LANE`; no operation of it looks at the
returned value (R183). -/
theorem dispatchAll_of_dispatchList {es : List EventRec} {s u : State} (r : Ret) (l : BitVec 4)
    (h : dispatchList es s = .next u) : ∃ l', dispatchAll es (relabel l r s) = .next (relabel l' r u) := by
  induction es generalizing s l with
  | nil =>
    cases h
    exact ⟨l, rfl⟩
  | cons e rest ih =>
    cases hv : exec (.dispatch e) s with
    | next v =>
      rw [dispatchList_cons_next hv] at h
      obtain ⟨l', hrest⟩ := ih e.button h
      refine ⟨l', Eq.trans ?_ hrest⟩
      have hblind : dispatchOp e (relabel e.button r s) = mapNext (relabel e.button r) (exec (.dispatch e) s) :=
        dispatchOp_blind e e.button r s
      rw [hv] at hblind
      exact congrArg (andThen · (dispatchAll rest)) hblind
    | fault x => simp [dispatchList, hv] at h
    | refused x => simp [dispatchList, hv] at h

/-- Settles O41: the state after SAMPLE differs from the one after the poll in the returned value, which the event loop
hands through. -/
theorem tickSamplesThenDispatches : Obligations.TickSamplesThenDispatches := by
  intro sw s t u hsample hlist
  obtain ⟨v, hv, ht⟩ := andThen_eq_next.mp (show execSample { s with sw := sw } = .next t from hsample)
  obtain ⟨-, -, -, -, hret⟩ := sampleOp_frame hv
  cases ht
  obtain ⟨l, hloop⟩ := dispatchAll_of_dispatchList v.ret v.lane hlist
  refine (execTick_next hv hloop).trans ?_
  rw [show s.ret = v.ret from hret.symm]
  rfl

/-! ### What the event loop leaves alone -/

/-- The poll count, the switches and the active size are as before. -/
def SamePoll (s t : State) : Prop := t.tick = s.tick ∧ t.sw = s.sw ∧ t.nact = s.nact

theorem SamePoll.refl (s : State) : SamePoll s s := ⟨rfl, rfl, rfl⟩

theorem SamePoll.trans {s t u : State} (hst : SamePoll s t) (htu : SamePoll t u) : SamePoll s u := by
  obtain ⟨htick, hsw, hnact⟩ := hst
  obtain ⟨htick', hsw', hnact'⟩ := htu
  exact ⟨htick'.trans htick, hsw'.trans hsw, hnact'.trans hnact⟩

theorem SamePoll.of_pinsOnly {s t : State} (h : PinsOnly s t) : SamePoll s t := by
  rw [h.eq]
  exact ⟨rfl, rfl, rfl⟩

/-- PV_ADVANCE changes lights and pins, and its cursor (R186). -/
theorem execPvAdvance_eq_next {e : EventRec} {s t : State} (h : execPvAdvance e s = .next t) :
    ∃ p u, PinsOnly { s with lights := p } u ∧ t = { u with pcur := u.pcur + 1#4 } := by
  unfold execPvAdvance at h
  split at h
  · obtain ⟨u, hu, ht⟩ := andThen_eq_next.mp h
    obtain ⟨p, hp⟩ := lightWith_pins hu
    cases ht
    exact ⟨p, u, hp, rfl⟩
  · cases h

/-- RC_HIT changes lights and pins, and its cursor (R190). -/
theorem execRcHit_eq_next {e : EventRec} {s t : State} (h : execRcHit e s = .next t) :
    ∃ p u, PinsOnly { s with lights := p } u ∧ t = { u with rcur := u.rcur + 1#4 } := by
  unfold execRcHit at h
  split at h
  · obtain ⟨u, hu, ht⟩ := andThen_eq_next.mp h
    obtain ⟨p, hp⟩ := lightWith_pins hu
    cases ht
    exact ⟨p, u, hp, rfl⟩
  · cases h

theorem performAuto_samePoll (op : AutoOp) : Keeps SamePoll (performAuto op) := by
  intro s t h
  cases op with
  | pvDone =>
    obtain ⟨u, hu, ht⟩ := andThen_eq_next.mp h
    have hsame : SamePoll s u := .of_pinsOnly (s := { s with rstate := stRecall, lights := 0x000#10 }) (lightOp_pins hu)
    cases ht
    exact hsame
  | rcDone | reportSuccess | reportFailure =>
    cases h
    exact .refl s

theorem performEvent_samePoll (op : EvOp) (e : EventRec) : Keeps SamePoll (performEvent op e) := by
  intro s t h
  cases op with
  | pvAdvance =>
    obtain ⟨p, u, hu, rfl⟩ := execPvAdvance_eq_next (e := e) h
    have hsame : SamePoll s u := .of_pinsOnly (s := { s with lights := p }) hu
    exact hsame
  | rcHit =>
    obtain ⟨p, u, hu, rfl⟩ := execRcHit_eq_next (e := e) h
    have hsame : SamePoll s u := .of_pinsOnly (s := { s with lights := p }) hu
    exact hsame
  | drop | pvRelease | pvIgnore | rcRelease | rcMiss =>
    cases h
    exact .refl s

theorem dispatchAll_samePoll (es : List EventRec) : Keeps SamePoll (dispatchAll es) :=
  dispatchAll_keeps .refl (fun _ _ _ => .trans) performAuto_samePoll performEvent_samePoll (fun s _ => .refl s) es

/-- A TICK that ends has counted its poll, holds its switch levels, and has the active size it began with (R145, R183). -/
theorem execTick_frame {sw : Pattern} {s t : State} (h : execTick sw s = .next t) :
    t.tick = s.tick + 1#32 ∧ t.sw = sw ∧ t.nact = s.nact := by
  obtain ⟨u, v, hu, hv, rfl⟩ := execTick_eq_next h
  obtain ⟨htick, hsw, -, hnact, -⟩ := sampleOp_frame hu
  obtain ⟨htick', hsw', hnact'⟩ := dispatchAll_samePoll u.events u v hv
  exact ⟨htick'.trans htick, hsw'.trans hsw, hnact'.trans hnact⟩

/-- Settles O42: the poll ends and leaves the controller waiting; every event of the batch ends and leaves it waiting
again; and neither the events nor AUTO touch the poll count and the switches. -/
theorem tickCompletesAtBoundary : Obligations.TickCompletesAtBoundary := by
  intro sw s hb
  obtain ⟨t, ht, hbt⟩ := execTick_boundary sw hb
  obtain ⟨htick, hsw, -⟩ := execTick_frame ht
  exact ⟨t, ht, hbt, htick, hsw⟩

/-! ### The outcome of a round that ends (R200) -/

/-- The outcome is valid, its count is at most the active size, and is the active size exactly for Success. -/
def Reported (s : State) : Prop :=
  s.outValid = true ∧ s.outCount.toNat ≤ s.nact.toNat ∧ (s.outSuccess = true ↔ s.outCount = s.nact)

theorem reported_success (s : State) : Reported (endRound true s.nact s) :=
  ⟨rfl, le_rfl, iff_of_true rfl rfl⟩

theorem reported_failure {s : State} (h : s.rcur.toNat < s.nact.toNat) : Reported (endRound false s.rcur s) :=
  ⟨rfl, h.le, iff_of_false Bool.false_ne_true (ne_of_cursor_lt h)⟩

/-- No event ends a round in PREVIEW (R186 to R189). -/
theorem dispatchOp_preview_goesOn {e : EventRec} {s t : State} (hb : e.button.toNat ≤ 9) (hoff : inputsOff s)
    (h : s.rstate = stPreview) (hd : Dealt s) (hc : s.pcur.toNat < s.nact.toNat) (ht : dispatchOp e s = .next t) :
    t.rstate ≠ stIdle := by
  have next_eq {u : State} (hu : dispatchOp e s = .next u) : u = t := Host.Outcome.next.inj (hu.symm.trans ht)
  have h10 := hd.le_ten
  have hpreview : s.rstate ≠ stIdle := by rw [h]; decide
  by_cases hignored : e.tr = false ∨ e.button ≠ s.pcur
  · obtain rfl := next_eq (dispatchOp_preview_ignored hb h (ne_of_cursor_lt hc) hignored)
    exact hpreview
  · obtain ⟨htr, hbutton⟩ := not_or.mp hignored
    obtain ⟨l, hm, hl⟩ := hd.mapAt (i := s.pcur) (by omega)
    obtain ⟨hmore, hlast⟩ := dispatchOfExpectedPress e s l hoff h hc h10 hd.two_le (Bool.eq_true_of_not_eq_false htr)
      (not_not.mp hbutton) hm hl
    obtain hlt | heq : s.pcur.toNat + 1 < s.nact.toNat ∨ s.pcur.toNat + 1 = s.nact.toNat := by omega
    · obtain rfl := next_eq (hmore hlt)
      exact hpreview
    · obtain rfl := next_eq (hlast heq)
      exact (by decide : stRecall ≠ stIdle)

/-- An event that ends a round in RECALL reports it (R193 to R195). -/
theorem dispatchOp_recall_reports {e : EventRec} {s t : State} (hb : e.button.toNat ≤ 9) (hoff : inputsOff s)
    (h : s.rstate = stRecall) (hd : Dealt s) (hc : s.rcur.toNat < s.nact.toNat) (ht : dispatchOp e s = .next t)
    (hidle : t.rstate = stIdle) : Reported t := by
  have next_eq {u : State} (hu : dispatchOp e s = .next u) : u = t := Host.Outcome.next.inj (hu.symm.trans ht)
  have hrecall : s.rstate ≠ stIdle := by rw [h]; decide
  obtain ⟨l, hm, hl⟩ := hd.mapAt hb
  cases htr : e.tr with
  | false =>
    obtain rfl := next_eq (dispatchOp_recall_release h (ne_of_cursor_lt hc) htr hb hm hl)
    exact absurd hidle hrecall
  | true =>
    obtain ⟨hmore, hlast, hmiss⟩ := dispatchOfRecallPress e s l hoff h hc hd.le_ten htr hm hl
    by_cases hit : l = s.rcur
    · obtain hlt | heq : s.rcur.toNat + 1 < s.nact.toNat ∨ s.rcur.toNat + 1 = s.nact.toNat := by omega
      · obtain rfl := next_eq (hmore hit hlt)
        exact absurd hidle hrecall
      · obtain rfl := next_eq (hlast hit heq)
        exact reported_success { afterLight (s.lights ||| 1#10 <<< l.toNat) s with rcur := s.nact }
    · obtain rfl := next_eq (hmiss hit)
      exact reported_failure hc

/-- The controller waits, and if no round is on any more, the one that was has been reported. -/
def OnOrReported (s : State) : Prop := AtRest s ∧ Waiting s ∧ (s.rstate = stIdle → Reported s)

theorem dispatchOp_onOrReported {e : EventRec} {s t : State} (hb : e.button.toNat ≤ 9) (h : OnOrReported s)
    (ht : dispatchOp e s = .next t) : OnOrReported t := by
  obtain ⟨hr, hw, hrep⟩ := h
  obtain ⟨u, hu, hur, huw⟩ := dispatchOp_settles hb hr hw
  obtain rfl : u = t := Host.Outcome.next.inj (hu.symm.trans ht)
  refine ⟨hur, huw, fun hidle => ?_⟩
  obtain hs | ⟨hs, hd, hc⟩ | ⟨hs, hd, -, hc⟩ := hw
  · obtain rfl : s = u := Host.Outcome.next.inj ((dispatchOp_idle hb hs).symm.trans ht)
    exact hrep hs
  · exact absurd hidle (dispatchOp_preview_goesOn hb hr.inputsOff hs hd hc ht)
  · exact dispatchOp_recall_reports hb hr.inputsOff hs hd hc ht hidle

theorem dispatchAll_onOrReported {es : List EventRec} (hes : ∀ e ∈ es, e.button.toNat ≤ 9) {s t : State}
    (h : OnOrReported s) (ht : dispatchAll es s = .next t) : OnOrReported t := by
  induction es generalizing s with
  | nil =>
    cases ht
    exact h
  | cons e rest ih =>
    obtain ⟨he, hrest⟩ := List.forall_mem_cons.mp hes
    obtain ⟨u, hu, ht⟩ := andThen_eq_next.mp ht
    have hlane : OnOrReported { s with lane := e.button } := h
    exact ih hrest (dispatchOp_onOrReported he hlane hu) ht

/-- Settles O44: the poll leaves the round on, and every event of the batch leaves it on or reported. -/
theorem outcomeCountWithinActive : Obligations.OutcomeCountWithinActive := by
  intro sw s t hb hround ht hidle
  obtain ⟨-, -, hnact⟩ := execTick_frame ht
  obtain ⟨-, hr, hw⟩ := boundary_iff.mp hb
  obtain ⟨u, v, hu, hv, rfl⟩ := execTick_eq_next ht
  obtain ⟨u', hu', hur, huw, hes⟩ := sampleOp_settles (s := { s with sw := sw }) hr hw
  obtain rfl : u' = u := Host.Outcome.next.inj (hu'.symm.trans hu)
  obtain ⟨-, -, hstate, -⟩ := sampleOp_frame hu
  have hon : s.rstate ≠ stIdle := by
    obtain e | e := hround <;> rw [e] <;> decide
  obtain ⟨-, -, hreported⟩ := dispatchAll_onOrReported hes ⟨hur, huw, fun e => absurd (hstate.symm.trans e) hon⟩ hv
  obtain ⟨hvalid, hcount, hsuccess⟩ := hreported hidle
  exact ⟨hvalid, hnact, hnact ▸ hcount, hnact ▸ hsuccess⟩

end Sys2Proof.Machine
end

section
/-! SUPPORT and PROOFS. The score family (44_score.md): RECORD's sum (R220), and the score as a counter that only grows
under its ceiling, but for SESSION_RESET and RESET (R222). -/

namespace Sys2Proof.Machine

/-- Settles O34: RECORD is the model's saturating sum, written out. -/
theorem recordSaturates : Obligations.RecordSaturates :=
  fun _ _ _ => rfl

/-! ### A growing score as a relation that sequences carry -/

/-- From a score under its ceiling the second state has the same parameters and a score no smaller, still under the
ceiling (R222). -/
def ScoreGrows (s t : State) : Prop :=
  s.score ≤ s.cfg.scoreMax → t.cfg = s.cfg ∧ s.score ≤ t.score ∧ t.score ≤ t.cfg.scoreMax

theorem ScoreGrows.of_same {s t : State} (hcfg : t.cfg = s.cfg) (hscore : t.score = s.score) : ScoreGrows s t := by
  intro hs
  rw [hcfg, hscore]
  exact ⟨rfl, le_rfl, hs⟩

theorem ScoreGrows.refl (s : State) : ScoreGrows s s := .of_same rfl rfl

theorem ScoreGrows.trans {s t u : State} (hst : ScoreGrows s t) (htu : ScoreGrows t u) : ScoreGrows s u := by
  intro hs
  obtain ⟨hcfg, hle, ht⟩ := hst hs
  obtain ⟨hcfg', hle', hu⟩ := htu ht
  exact ⟨hcfg'.trans hcfg, hle.trans hle', hu⟩

/-- Pin activity touches neither the score nor the parameters. -/
theorem ScoreGrows.of_pinsOnly {s t : State} (h : PinsOnly s t) : ScoreGrows s t := by
  rw [h.eq]
  exact .of_same rfl rfl

/-- Lights and pins touch neither the score nor the parameters. -/
theorem ScoreGrows.of_lights {p : Pattern} {s t : State} (h : PinsOnly { s with lights := p } t) : ScoreGrows s t :=
  .of_pinsOnly (s := { s with lights := p }) h

/-- The saturating sum lies between the score it began with and the ceiling (R220). -/
theorem addScore_scoreGrows (c : Index) (s : State) : ScoreGrows s (addScore c s) :=
  fun hs => ⟨rfl, le_min (Nat.le_add_right _ _) hs, Nat.min_le_right _ _⟩

theorem endRound_scoreGrows (success : Bool) (count : Index) (s : State) : ScoreGrows s (endRound success count s) :=
  addScore_scoreGrows count (setOutcome success count s)

/-! ### The operations, family by family -/

theorem exec_signaling_scoreGrows {i : Instr} {s t : State} (hi : signaling i = true) (h : exec i s = .next t) :
    ScoreGrows s t := by
  cases hn : strobing i with
  | true => exact .of_pinsOnly (exec_strobing hn h)
  | false =>
    obtain ⟨hpins, -⟩ := exec_reading hi hn h
    exact .of_pinsOnly (s := { s with ret := t.ret }) hpins

theorem sampleOp_scoreGrows : Keeps ScoreGrows sampleOp := by
  intro s t h
  obtain ⟨u, hu, ht⟩ := andThen_eq_next.mp h
  obtain ⟨hpins, -⟩ := readSwitchesSeq_readOnly s u hu
  have hread : ScoreGrows s u := .of_pinsOnly hpins
  rw [pollSet_eq] at ht
  cases ht
  exact hread

theorem generateOp_scoreGrows : Keeps ScoreGrows generateOp := by
  intro s t h
  rw [attempts_frame h]
  exact .of_same rfl rfl

/-- Of the bookkeeping operations RECORD adds to the score, SESSION_RESET clears it, and no other touches it. -/
theorem exec_bookkeeping_scoreGrows {i : Instr} {s t : State} (hi : bookkeeping i = true) (hne : i ≠ .sessionReset)
    (h : exec i s = .next t) : ScoreGrows s t := by
  cases i
  case sessionReset => exact absurd rfl hne
  case record b c =>
    cases h
    exact addScore_scoreGrows c s
  case sample =>
    obtain ⟨u, hu, ht⟩ := andThen_eq_next.mp h
    have hpoll : ScoreGrows s u := sampleOp_scoreGrows s u hu
    cases ht
    exact hpoll
  case debounce k raw =>
    simp only [exec, execDebounce, debounceLane_eq] at h
    split at h <;> cases h
    exact .of_same rfl rfl
  case emit k b =>
    simp only [exec, execEmit] at h
    split at h <;> cases h
    exact .of_same rfl rfl
  case generate => exact generateOp_scoreGrows s t h
  case gSwap k j =>
    rw [swapEntries_frame h]
    exact .of_same rfl rfl
  case gCheck =>
    simp only [exec, execGCheck] at h
    split at h <;> cases h
    exact .of_same rfl rfl
  case gInit | noreq | evDrop | pvRelease | pvIgnore | rcRelease =>
    cases h
    exact .of_same rfl rfl
  all_goals cases hi

/-! ### Controller -/

theorem performAuto_scoreGrows (op : AutoOp) : Keeps ScoreGrows (performAuto op) := by
  intro s t h
  cases op with
  | pvDone =>
    obtain ⟨u, hu, ht⟩ := andThen_eq_next.mp h
    have hlights : ScoreGrows s u := .of_lights (s := { s with rstate := stRecall }) (lightOp_pins hu)
    cases ht
    exact hlights
  | rcDone =>
    cases h
    exact .of_same rfl rfl
  | reportSuccess =>
    cases h
    exact endRound_scoreGrows true s.nact s
  | reportFailure =>
    cases h
    exact endRound_scoreGrows false s.rcur s

theorem performEvent_scoreGrows (op : EvOp) (e : EventRec) : Keeps ScoreGrows (performEvent op e) := by
  intro s t h
  cases op with
  | pvAdvance =>
    obtain ⟨p, u, hu, rfl⟩ := execPvAdvance_eq_next (e := e) h
    have hlights : ScoreGrows s u := .of_lights hu
    exact hlights
  | rcHit =>
    obtain ⟨p, u, hu, rfl⟩ := execRcHit_eq_next (e := e) h
    have hlights : ScoreGrows s u := .of_lights hu
    exact hlights
  | drop | pvRelease | pvIgnore | rcRelease | rcMiss =>
    cases h
    exact .of_same rfl rfl

theorem autoOp_scoreGrows : Keeps ScoreGrows autoOp :=
  autoLoop_keeps .refl (fun _ _ _ => .trans) performAuto_scoreGrows 4

theorem dispatchOp_scoreGrows (e : EventRec) : Keeps ScoreGrows (dispatchOp e) :=
  dispatchOp_keeps .refl (fun _ _ _ => .trans) performAuto_scoreGrows performEvent_scoreGrows e

theorem dispatchAll_scoreGrows (es : List EventRec) : Keeps ScoreGrows (dispatchAll es) :=
  dispatchAll_keeps .refl (fun _ _ _ => .trans) performAuto_scoreGrows performEvent_scoreGrows
    (fun s _ => .refl s) es

/-- The poll leaves the score alone, and each dispatched event lets it grow (R183). -/
theorem execTick_scoreGrows (sw : Pattern) : Keeps ScoreGrows (execTick sw) := by
  intro s t h
  obtain ⟨u, v, hu, hv, rfl⟩ := execTick_eq_next h
  exact (sampleOp_scoreGrows { s with sw := sw } u hu).trans (dispatchAll_scoreGrows u.events u v hv)

/-- START generates, puts the lights out and goes on to AUTO (R181). -/
theorem startRound_scoreGrows (d : BitVec 2) (n : Nat) : Keeps ScoreGrows (startRound d n) := by
  intro s t h
  obtain ⟨u, hu, h⟩ := andThen_eq_next.mp h
  obtain ⟨v, hv, ht⟩ := andThen_eq_next.mp h
  have hgenerate : ScoreGrows s u := generateOp_scoreGrows { s with diff := d, nact := BitVec.ofNat 4 n } u hu
  have hlights : ScoreGrows u v := .of_lights (s := beginRound u) (lightOp_pins hv)
  have hauto : ScoreGrows v t := autoOp_scoreGrows { v with rstate := stPreview } t ht
  exact hgenerate.trans (hlights.trans hauto)

theorem execStart_scoreGrows (d : BitVec 2) : Keeps ScoreGrows (execStart d) := by
  intro s t h
  obtain rfl | ⟨n, -, -, hstart⟩ := execStart_eq_next h
  · exact .refl t
  · exact startRound_scoreGrows d n s t hstart

/-! ### Every operation -/

/-- R222 over the 40 operations that do not clear the score. -/
theorem exec_scoreGrows {i : Instr} {s t : State} (hsession : i ≠ .sessionReset) (hreset : i ≠ .reset)
    (h : exec i s = .next t) : ScoreGrows s t := by
  cases i
  case reset => exact absurd rfl hreset
  case start d => exact execStart_scoreGrows d s t h
  case abort =>
    cases h
    exact .of_same rfl rfl
  case tick sw => exact execTick_scoreGrows sw s t h
  case dispatch e => exact dispatchOp_scoreGrows e s t h
  case auto => exact autoOp_scoreGrows s t h
  case pvAdvance e => exact performEvent_scoreGrows .pvAdvance e s t h
  case rcMiss e => exact performEvent_scoreGrows .rcMiss e s t h
  case rcHit e => exact performEvent_scoreGrows .rcHit e s t h
  case pvDone => exact performAuto_scoreGrows .pvDone s t h
  case rcDone => exact performAuto_scoreGrows .rcDone s t h
  case reportSuccess => exact performAuto_scoreGrows .reportSuccess s t h
  case reportFailure => exact performAuto_scoreGrows .reportFailure s t h
  case sample | debounce | emit | generate | gInit | gSwap | gCheck | noreq | sessionReset | evDrop | pvRelease |
      pvIgnore | rcRelease | record => exact exec_bookkeeping_scoreGrows rfl hsession h
  all_goals exact exec_signaling_scoreGrows rfl h

/-- Settles O51: the two operations that clear the score leave it 0, and under every other it grows. -/
theorem scoreNeverFalls : Obligations.ScoreNeverFalls := by
  intro i s t hs h
  by_cases hclears : i = .sessionReset ∨ i = .reset
  · obtain rfl | rfl := hclears <;> cases h
    · exact ⟨Nat.zero_le _, fun hne _ => absurd rfl hne⟩
    · exact ⟨Nat.zero_le _, fun _ hne => absurd rfl hne⟩
  · obtain ⟨hsession, hreset⟩ := not_or.mp hclears
    obtain ⟨-, hle, hmax⟩ := exec_scoreGrows hsession hreset h hs
    exact ⟨hmax, fun _ _ => hle⟩

end Sys2Proof.Machine
end

section
/-! SUPPORT and PROOFS. The exceptions family (60_exceptions.md): contention carried from the micro-operation that meets it
to the sequences and operations made of it (R234), and a step as the run of one command (R236). -/

namespace Sys2Proof.Machine

/-! ### Micro-operations after which two drive the bus (R36) -/

theorem microBusRel_contends {s : State} (h : s.pin.oeLoN = false ∧ s.pin.oeHiN = false) :
    microBusRel s = .fault .busContention :=
  endCycle_fault (two_le_drivers_iff.mpr (.inr (.inr h)))

theorem microOeLoOff_contends {s : State} (h : s.pin.busDir = true ∧ s.pin.oeHiN = false) :
    microOeLoOff s = .fault .busContention :=
  endCycle_fault (two_le_drivers_iff.mpr (.inr (.inl h)))

theorem microOeHiOff_contends {s : State} (h : s.pin.busDir = true ∧ s.pin.oeLoN = false) :
    microOeHiOff s = .fault .busContention :=
  endCycle_fault (two_le_drivers_iff.mpr (.inl h))

/-- A strobe's own pin is no driver (R36). -/
theorem microStbLo_contends {s : State} (h : 2 ≤ s.pin.drivers) : microStbLo s = .fault .busContention :=
  withBus_fault (s := { s with pin := { s.pin with stbLo := true } }) h

theorem microStbHi_contends {s : State} (h : 2 ≤ s.pin.drivers) : microStbHi s = .fault .busContention :=
  withBus_fault (s := { s with pin := { s.pin with stbHi := true } }) h

theorem microSampLo_contends {s : State} (h : 2 ≤ s.pin.drivers) : microSampLo s = .fault .busContention :=
  withBus_fault h

theorem microSampHi_contends {s : State} (h : 2 ≤ s.pin.drivers) : microSampHi s = .fault .busContention :=
  withBus_fault h

/-! ### Sequences and operations that write to the bus -/

theorem busWriteSeq_contends (bank : Bank) (v : Byte) {s : State} (h : ¬ inputsOff s) :
    busWriteSeq bank v s = .fault .busContention := by
  cases bank <;> rw [busWriteSeq, microBusOut_contends h, andThen_fault]

theorem writeLightsSeq_contends (p : Pattern) {s : State} (h : ¬ inputsOff s) :
    writeLightsSeq p s = .fault .busContention := by
  have hfirst : busWriteSeq .lo (byteLo p) (restartUstep s) = .fault .busContention :=
    busWriteSeq_contends .lo _ (s := restartUstep s) h
  simp only [writeLightsSeq, hfirst, andThen_fault]

theorem lightOp_contends (p : Pattern) {s : State} (h : ¬ inputsOff s) : lightOp p s = .fault .busContention :=
  writeLightsSeq_contends p (s := { s with lights := p }) h

theorem lightWith_contends (base : Pattern) {l : Index} {s : State} (h : ¬ inputsOff s) (hl : l.toNat ≤ 9) :
    lightWith base l s = .fault .busContention := by
  simp only [lightWith, onehot, if_pos hl, lightOp_contends _ h]

theorem execPvDone_contends {s : State} (h : ¬ inputsOff s) : execPvDone s = .fault .busContention := by
  rw [execPvDone, lightOp_contends _ (by exact h), andThen_fault]

theorem execPvAdvance_contends (e : EventRec) {s : State} {l : Index} (h : ¬ inputsOff s)
    (hm : mapAt s s.pcur = some l) (hl : l.toNat ≤ 9) : execPvAdvance e s = .fault .busContention := by
  simp only [execPvAdvance, hm, lightWith_contends _ h hl, andThen_fault]

theorem execRcHit_contends {e : EventRec} {s : State} {l : Index} (h : ¬ inputsOff s)
    (hm : mapAt s e.button = some l) (hl : l.toNat ≤ 9) : execRcHit e s = .fault .busContention := by
  simp only [execRcHit, hm, lightWith_contends _ h hl, andThen_fault]

/-! ### Sequences and operations that read the switches -/

theorem busReadSeq_lo_contends {s : State} (h : s.pin.busDir = true ∨ s.pin.oeHiN = false) :
    busReadSeq .lo s = .fault .busContention := by
  simp only [busReadSeq, microOeLoOn_contends h, andThen_fault]

theorem busReadSeq_hi_contends {s : State} (h : s.pin.busDir = true ∨ s.pin.oeLoN = false) :
    busReadSeq .hi s = .fault .busContention := by
  simp only [busReadSeq, microOeHiOn_contends h, andThen_fault]

theorem busReadSeq_driven_contends (bank : Bank) {s : State} (h : s.pin.busDir = true) :
    busReadSeq bank s = .fault .busContention := by
  cases bank with
  | lo => exact busReadSeq_lo_contends (.inl h)
  | hi => exact busReadSeq_hi_contends (.inl h)

theorem execBusRead_fault {bank : Bank} {s : State} {x : Fault} (h : busReadSeq bank s = .fault x) :
    execBusRead bank s = .fault x := by
  rw [execBusRead, h, andThen_fault]

/-- The release contends with the low bank enabled too; without it, the read of the low bank does (R127). -/
theorem readSwitchesSeq_contends {s : State} (h : s.pin.oeHiN = false) :
    readSwitchesSeq s = .fault .busContention := by
  by_cases hlo : s.pin.oeLoN = false
  · have hrel : microBusRel (restartUstep s) = .fault .busContention :=
      microBusRel_contends (s := restartUstep s) ⟨hlo, h⟩
    simp only [readSwitchesSeq, hrel, andThen_fault]
  · rw [readSwitchesSeq, microBusRel_next (s := restartUstep s) (fun hboth => hlo hboth.1), andThen_next,
      busReadSeq_lo_contends (.inr (by exact h)), andThen_fault, andThen_fault]

theorem execReadSwitches_contends {s : State} (h : s.pin.oeHiN = false) :
    execReadSwitches s = .fault .busContention := by
  rw [execReadSwitches, readSwitchesSeq_contends h, andThen_fault]

theorem sampleOp_contends {s : State} (h : s.pin.oeHiN = false) : sampleOp s = .fault .busContention := by
  rw [sampleOp, readSwitchesSeq_contends h, andThen_fault]

theorem execSample_contends {s : State} (h : s.pin.oeHiN = false) : execSample s = .fault .busContention := by
  rw [execSample, sampleOp_contends h, andThen_fault]

theorem execTick_contends (sw : Pattern) {s : State} (h : s.pin.oeHiN = false) :
    execTick sw s = .fault .busContention := by
  rw [execTick, sampleOp_contends (s := { s with sw := sw }) h, andThen_fault]

/-- Settles O7: each operation comes to a micro-operation after which two drive the bus, and nothing before it in its
sequence takes one of the two off. -/
theorem contentionFaults : Obligations.ContentionFaults := by
  intro s v p sw bank e l
  refine ⟨?contended, microBusRel_contends, ?highBank, fun hlo => execBusRead_fault (busReadSeq_hi_contends (.inr hlo)),
    microOeLoOff_contends, microOeHiOff_contends, ?inputs,
    fun hdir => execBusRead_fault (busReadSeq_driven_contends bank hdir)⟩
  case contended =>
    intro h
    exact ⟨endCycle_fault h, microStbLo_contends h, microStbHi_contends h, microSampLo_contends h,
      microSampHi_contends h⟩
  case highBank =>
    intro h
    exact ⟨execBusRead_fault (busReadSeq_lo_contends (.inr h)), execReadSwitches_contends h, execSample_contends h,
      execTick_contends sw h⟩
  case inputs =>
    intro h
    exact ⟨busWriteSeq_contends bank v h, writeLightsSeq_contends p h, execPvDone_contends h,
      execPvAdvance_contends e h, execRcHit_contends h⟩

/-! ### A step as the run of one command -/

theorem runCommand_whole {c : Cmd} {i : Instr} (s : State) (hcut : c.cut = none) (hi : decode c.word = .ok i) :
    runCommand c s = exec i s := by
  simp only [runCommand, hi, perform, hcut]

theorem runCommand_undecodable {c : Cmd} {why : DecodeError} (s : State) (h : decode c.word = .error why) :
    runCommand c s = .refused (.undecodable why) := by
  simp only [runCommand, h]

/-- Settles O56: an admitted state's step is the run of its oldest command, by what the word decodes to. -/
theorem stepRunsDecodedCommand : Obligations.StepRunsDecodedCommand := by
  intro s c rest hs
  refine ⟨fun hinbox hcut i hi => ?runs, fun hinbox why hwhy => ?refused, step_nil hs⟩
  case runs => exact (step_cons hs hinbox).trans (runCommand_whole _ hcut hi)
  case refused => exact (step_cons hs hinbox).trans (runCommand_undecodable _ hwhy)

end Sys2Proof.Machine
end

section
/-! SUPPORT and PROOFS. The reset family (70_reset_and_hazards.md): RESET against the state after reset (R261 to R263), and
a reset in the middle of WRITE_LIGHTS, followed through the cycles that came before it (R264). -/

namespace Sys2Proof.Machine

/-! ### RESET -/

/-- RESET leaves the state after reset, but for the fields that it does not reach (R262, R263). -/
theorem resetBlock_eq (s : State) : resetBlock s = { State.reset with
    cfg := s.cfg, outLatchLo := s.outLatchLo, outLatchHi := s.outLatchHi, sw := s.sw, rand := s.rand
    randPos := s.randPos, events := s.events, trace := s.trace, ret := s.ret, freeHi := s.freeHi
    freeCtr := s.freeCtr, inbox := s.inbox } := rfl

/-- Settles O45: RESET is the block's reset, and each register's value there is that of the table. -/
theorem resetRestoresTable : Obligations.ResetRestoresTable :=
  fun s => congrArg Host.Outcome.next (resetBlock_eq s)

/-! ### Cycles of a pin trace, performed again (R82) -/

theorem replayEntry_busOut (d : Byte) (s : State) : replayEntry (0x1#4 ++ d) s = microBusOut d s := by
  rw [replayEntry, extract_append_high, extract_append_low]
  rfl

theorem replay_busOut {d : Byte} {ws : List TraceEntry} {s : State} (h : inputsOff s) :
    replay ((0x1#4 ++ d) :: ws) s =
      replay ws (afterCycle 0x1#4 d { s with pin := { s.pin with busOut := d, busDir := true } }) := by
  rw [replay, replayEntry_busOut, microBusOut_next h, andThen_next]

/-- A byte driven and its strobe are a BUS_WRITE (R124). -/
theorem replay_busWriteLo {v : Byte} {ws : List TraceEntry} {s : State} (h : inputsOff s) :
    replay ((0x1#4 ++ v) :: 0x300#12 :: ws) s = replay ws { s with
      outLatchLo := v
      pin := { s.pin with busOut := v, busDir := true, stbLo := false }
      trace := s.trace ++ [0x1#4 ++ v, 0x300#12]
      ustep := s.ustep + 2 } := by
  have hwrite : replay ((0x1#4 ++ v) :: 0x300#12 :: ws) s = andThen (busWriteSeq .lo v s) (replay ws) := by
    rw [replay, replayEntry_busOut, busWriteSeq, andThen_assoc]
    rfl
  rw [hwrite, busWriteSeq_lo_next h, andThen_next]

theorem replay_busWriteHi {v : Byte} {ws : List TraceEntry} {s : State} (h : inputsOff s) :
    replay ((0x1#4 ++ v) :: 0x400#12 :: ws) s = replay ws { s with
      outLatchHi := v
      pin := { s.pin with busOut := v, busDir := true, stbHi := false }
      trace := s.trace ++ [0x1#4 ++ v, 0x400#12]
      ustep := s.ustep + 2 } := by
  have hwrite : replay ((0x1#4 ++ v) :: 0x400#12 :: ws) s = andThen (busWriteSeq .hi v s) (replay ws) := by
    rw [replay, replayEntry_busOut, busWriteSeq, andThen_assoc]
    rfl
  rw [hwrite, busWriteSeq_hi_next h, andThen_next]

theorem replay_busRel {s : State} (h : inputsOff s) :
    replay [0x200#12] s = .next (afterCycle 0x2#4 0x00#8 { s with pin := { s.pin with busDir := false } }) := by
  obtain ⟨hlo, -⟩ := h
  have hrel : replay [0x200#12] s = andThen (microBusRel s) .next := rfl
  rw [hrel, microBusRel_next (by simp [hlo]), andThen_next]

/-! ### A reset in the middle of WRITE_LIGHTS (R264) -/

/-- What a reset after n cycles of WRITE_LIGHTS finds outside its reach: the latches that were strobed by then have the
new byte (R126, R263), and the cycles stand in the trace. -/
def lightsCut (p : Pattern) (n : Nat) (s : State) : State :=
  { s with
    outLatchLo := if 2 ≤ n then ~~~(p.extractLsb' 0 8) else s.outLatchLo
    outLatchHi := if 4 ≤ n then 0b111111#6 ++ ~~~(p.extractLsb' 8 2) else s.outLatchHi
    trace := s.trace ++ (lightsTrace p).take n }

/-- The block's reset takes away what the pins, `USTEP` and the settle counts were in the middle of WRITE_LIGHTS. -/
theorem replay_take_lightsTrace (p : Pattern) (n : Nat) {s : State} (h : inputsOff s) :
    ∃ t, replay ((lightsTrace p).take n) s = .next t ∧ resetBlock t = resetBlock (lightsCut p n s) := by
  match n with
  | 0 => exact ⟨s, rfl, by simp [resetBlock, lightsCut]⟩
  | 1 => exact ⟨_, replay_busOut h, by simp [resetBlock, lightsCut, lightsTrace, afterCycle]⟩
  | 2 => exact ⟨_, replay_busWriteLo h, by simp [resetBlock, lightsCut, lightsTrace]⟩
  | 3 =>
    exact ⟨_, (replay_busWriteLo h).trans (replay_busOut h),
      by simp [resetBlock, lightsCut, lightsTrace, afterCycle]⟩
  | 4 =>
    exact ⟨_, (replay_busWriteLo h).trans (replay_busWriteHi h), by simp [resetBlock, lightsCut, lightsTrace]⟩
  | n + 5 =>
    rw [List.take_of_length_le (show (lightsTrace p).length ≤ n + 5 from Nat.le_add_left 5 n)]
    exact ⟨_, (replay_busWriteLo h).trans ((replay_busWriteHi (by exact h)).trans (replay_busRel (by exact h))),
      by simp [resetBlock, lightsCut, lightsTrace, afterCycle]⟩

/-! ### A step that a reset cuts short -/

theorem runCommand_cut {c : Cmd} {cut : Cut} {i : Instr} (s : State) (hcut : c.cut = some cut)
    (hi : decode c.word = .ok i) : runCommand c s = cutShort cut i s (exec i s) := by
  simp only [runCommand, hi, perform, hcut]

/-- Of a step that takes no RAND word, leaves the switches and emits no event, only the cycles matter to a reset. -/
theorem resetWithin_cycles {cut : Cut} {i : Instr} {s t u : State} (hsw : t.sw = s.sw) (hpos : t.randPos = s.randPos)
    (hevents : t.events = []) (hu : replay (t.trace.take cut.micro) s = .next u) :
    resetWithin cut i s t = .next { resetBlock u with events := [] } := by
  have hwords : wordsTaken cut s.randPos t.randPos = 0 := by simp [wordsTaken, hpos]
  have hstart : dropRand 0 { s with sw := t.sw } = s := by rw [hsw]; rfl
  rw [resetWithin, hwords, hstart, hu, andThen_next, hevents, eventsDriven_nil]

/-- With the input latches off the bus every cycle of WRITE_LIGHTS ends, so a reset meets it wherever it falls. -/
theorem cutShort_writeLights {cut : Cut} {p : Pattern} {s : State} (h : inputsOff s) (htrace : s.trace = [])
    (hevents : s.events = []) :
    cutShort cut (.writeLights p) s (writeLightsSeq p s) = .next (resetBlock (lightsCut p cut.micro s)) := by
  obtain ⟨t, ht, hreset⟩ := replay_take_lightsTrace p cut.micro h
  have hwhole : (afterLight p s).trace = lightsTrace p := by rw [afterLight, htrace, List.nil_append]
  rw [← hwhole] at ht
  rw [writeLightsSeq_next h]
  refine (resetWithin_cycles (s := s) (t := { afterLight p s with lights := s.lights }) rfl rfl hevents ht).trans ?_
  rw [hreset, ← hevents]
  rfl

/-- R237 (c): the first cycle of WRITE_LIGHTS contends, so a reset wins only before it. -/
theorem cutShort_writeLights_contends {cut : Cut} {p : Pattern} {s : State} (h : ¬ inputsOff s) (htrace : s.trace = [])
    (hevents : s.events = []) :
    cutShort cut (.writeLights p) s (writeLightsSeq p s) =
      if cut.micro = 0 then .next (resetBlock s) else .fault .busContention := by
  have hreach : cut.micro ≤ s.trace.length ↔ cut.micro = 0 := by simp [htrace]
  have hreplay : replay (s.trace.take cut.micro) s = .next s := by rw [htrace, List.take_nil]; rfl
  have hreset : resetWithin cut (.writeLights p) s s = .next (resetBlock s) := by
    rw [resetWithin_cycles rfl rfl hevents hreplay, ← hevents]
    rfl
  have hstop : stopPoint (.writeLights p) s = s := rfl
  rw [writeLightsSeq_contends p h, cutShort, hstop, resetBefore, hreset]
  simp only [hreach]

/-- Settles O47: the step begins with an empty trace and no events, so the reset comes after as many cycles of
WRITE_LIGHTS as the cut says. -/
theorem resetInTheMiddleOfWriteLights : Obligations.ResetInTheMiddleOfWriteLights := by
  intro p s rest cut hs hinbox
  have hbegun : step s = cutShort cut (.writeLights p) (beginStep _ rest s) (writeLightsSeq p (beginStep _ rest s)) :=
    (step_cons hs hinbox).trans (runCommand_cut _ rfl (decode_encode (.writeLights p)))
  refine ⟨fun hoff => ?within, fun hcontends hmicro => ?before, fun hcontends hmicro => ?after⟩
  case within =>
    rw [hbegun, cutShort_writeLights (by exact hoff) (by rfl) (by rfl), resetBlock_eq]
    rfl
  case before =>
    rw [hbegun, cutShort_writeLights_contends (by exact hcontends) (by rfl) (by rfl), if_pos hmicro, resetBlock_eq]
    rfl
  case after =>
    rw [hbegun, cutShort_writeLights_contends (by exact hcontends) (by rfl) (by rfl), if_neg hmicro]

end Sys2Proof.Machine
end
